-- ==== Sys2Proof/Word.lean ====
section
/-! DEFINITION. The two value types of the block (00_scope.md R8 to R10): a byte of 8 bits, bit 7 the most
significant, and a byte string, whose element of lower index is sent first. Every integer of the block is an unsigned
natural number (R9), so lengths and counts are `Nat`. -/

namespace Sys2Proof

/-- One byte, bit 7 the most significant (R8). -/
abbrev Byte := BitVec 8

/-- A byte string, first index 0 (R10). -/
abbrev Bytes := List Byte

end Sys2Proof
end

