-- ==== Sys2Proof/Machine/Bytes.lean ====
section
/-! DEFINITION. The byte-order helpers: everything of more than one byte is big-endian (20_memory.md R40). -/

namespace Sys2Proof.Machine

/-- The low 8 bits of a natural number as a byte. -/
def byteOf (v : Nat) : Byte := BitVec.ofNat 8 v

/-- `be_k(v)` (00_scope.md R11): the `k` low bytes of `v`, most significant first. -/
def beBytes : Nat → Nat → Bytes
  | 0, _ => []
  | k + 1, v => byteOf (v >>> (8 * k)) :: beBytes k v

/-- Reads bytes, most significant first, behind a value already read: `v = (v << 8) | s[i]` for each byte in turn (R99). -/
def beFold (v : Nat) (s : Bytes) : Nat := s.foldl (fun a b => (a <<< 8) ||| b.toNat) v

/-- The big-endian number in a byte string (R137, R171). -/
def beNat (s : Bytes) : Nat := beFold 0 s

end Sys2Proof.Machine
end

