-- ==== Sys2Proof/Config.lean ====
section
/-! DEFINITION. What an implementation fixes: the parameters of 00_scope.md R7 at the values the spec gives them, the
hardwired constants of 10_state.md R24 (the status table stands in Sys2Proof/Machine/Flags.lean), and the type of the
sink's failure value. The spec leaves no result of an operation open, so no opaque constant stands here. -/

namespace Sys2Proof.Config

/-- `NW`, the width of the integer operand `N` (R7, default 32; notes/assumptions/2.md). -/
abbrev nw : Nat := 32

/-- `LW`, the width of `IBUF_LEN` (R7, default 32; notes/assumptions/2.md). -/
abbrev lw : Nat := 32

/-- Width of `STATUS_LEN`: 8 bits carry exactly 0 to `SMAX` (R7, R21; notes/assumptions/2.md). -/
abbrev statusLenWidth : Nat := 8

/-- `SMAX`, the greatest length of a status name (R7). -/
def smax : Nat := 255

/-- `SIGNATURE`, the first byte of every packet (R7, R24, R65). -/
def signature : Byte := 0xB3#8

/-- `VERSION`, the protocol version in the flags (R2, R7, R24). -/
def version : BitVec 4 := 2#4

/-- `VLI_MAX`, the greatest integer of the variable-length encoding (R7). -/
def vliMax : Nat := 1073741823

/-- `LEN_MAX`, the greatest packet length (R7, R53). -/
def lenMax : Nat := 4194303

/-- The bound a nanosecond remainder stays below (R21, R128). -/
def nsecLimit : Nat := 1000000000

/-- The sink's failure value: the spec leaves its type open (R45, U11) and the block never looks at it.
DESIGN CHOICE: a natural number (notes/assumptions/8.md). -/
abbrev SinkError := Nat

end Sys2Proof.Config
end

