-- ==== Sys2Proof/Syntax.lean ====
section
/-! DEFINITION. The instructions: one constructor for each of the 14 rows of spec/opcode_table.json, and the places an
encoded row can stand in. Six rows are the operations of the block and two its reserved `OP` codes (30_encoding.md R60,
R73); six are the wire patterns (R62, R64, R65), which the block emits and which the reference reader of R99 and R171
reads back. -/

namespace Sys2Proof

/-- The field of a packet a wire pattern stands in. A reader knows it from the position (R70), not from the bits: `B3`
is the signature at offset 0 and the first byte of an integer elsewhere. -/
inductive WireField
  /-- Packet offset 0 (R65). -/
  | signature
  /-- Packet offsets 1 and 2 (R64). -/
  | flags
  /-- A variable-length integer: length field, nanoseconds or identifier length (R62, R103). -/
  | integer
  deriving DecidableEq, Repr

/-- Where an encoded row stands: in the register `OP` of a request (R60) or in a field of a packet. -/
inductive Slot
  /-- The register `OP` of a request (R60). -/
  | request
  /-- A field of a packet (R70). -/
  | wire (f : WireField)
  deriving DecidableEq, Repr

/-- The rows of spec/opcode_table.json. A request has no operand specifiers: each operation reads the request registers
of the state by name (R61), so those constructors have no arguments. -/
inductive Instr
  /-- `OP = 0b000` (R60, R90). -/
  | vli
  /-- `OP = 0b001` (R60, R110). -/
  | flg
  /-- `OP = 0b010` (R60, R125). -/
  | tse
  /-- `OP = 0b011` (R60, R130). -/
  | ide
  /-- `OP = 0b100` (R60, R140). -/
  | crc
  /-- `OP = 0b101`, the document's `encode_status(event)` (R60, R76, R155). -/
  | enc
  /-- `OP = 0b110`, reserved (R73). -/
  | reservedOp6
  /-- `OP = 0b111`, reserved (R73). -/
  | reservedOp7
  /-- The pattern `00vvvvvv` (R62, R92). -/
  | wireVli1 (v : Nat)
  /-- The pattern `01vvvvvv vvvvvvvv` (R62, R93). -/
  | wireVli2 (v : Nat)
  /-- The pattern `10vvvvvv vvvvvvvv vvvvvvvv` (R62, R94). -/
  | wireVli3 (v : Nat)
  /-- The pattern `11vvvvvv vvvvvvvv vvvvvvvv vvvvvvvv` (R62, R95). -/
  | wireVli4 (v : Nat)
  /-- The signature byte `10110011` (R65). -/
  | wireSignature
  /-- The pattern `0010I0T0 00000sss` (R64). -/
  | wireFlags (idPresent tsPresent : Bool) (status : BitVec 3)
  deriving DecidableEq, Repr

/-- The place each row stands in. -/
def Instr.slot : Instr → Slot
  | .vli => .request
  | .flg => .request
  | .tse => .request
  | .ide => .request
  | .crc => .request
  | .enc => .request
  | .reservedOp6 => .request
  | .reservedOp7 => .request
  | .wireVli1 _ => .wire .integer
  | .wireVli2 _ => .wire .integer
  | .wireVli3 _ => .wire .integer
  | .wireVli4 _ => .wire .integer
  | .wireSignature => .wire .signature
  | .wireFlags _ _ _ => .wire .flags

end Sys2Proof
end

