-- ==== Sys2Proof/WellFormed.lean ====
section
/-! DEFINITION. Well-formed instructions: the value of a variable-length integer fits the usable bits of its size class
(30_encoding.md R62). Every other field is held by a type that has no further values. -/

namespace Sys2Proof

/-- The fields of the instruction fit their encoding (R62: 6, 14, 22 and 30 usable bits). -/
def Instr.wf : Instr → Bool
  | .vli => true
  | .flg => true
  | .tse => true
  | .ide => true
  | .crc => true
  | .enc => true
  | .reservedOp6 => true
  | .reservedOp7 => true
  | .wireVli1 v => decide (v < 64)
  | .wireVli2 v => decide (v < 16384)
  | .wireVli3 v => decide (v < 4194304)
  | .wireVli4 v => decide (v < 1073741824)
  | .wireSignature => true
  | .wireFlags _ _ _ => true

end Sys2Proof
end

