-- ==== Sys2Proof/Decode.lean ====
section
/-! DEFINITION. The decoder, total on any bytes, and the encoder, both written from 30_encoding.md R60, R62 to R65 and
R73. A place (`Slot`) and the bytes from it on give the instruction and the bytes after it, or a named rejection. -/

namespace Sys2Proof

/-- Why bytes are no instruction at their place. -/
inductive DecodeError
  /-- There is no byte at all. -/
  | noBytes
  /-- Fewer bytes than the pattern needs (R102). -/
  | truncated
  /-- A byte above 7 in the place of the 3-bit `OP` (R60; notes/assumptions/6.md). -/
  | opOutOfRange
  /-- A byte other than `B3` in the place of the signature (R65). -/
  | notSignature
  /-- Flags bytes whose fixed bits are not `0010-0-0 00000---` (R64). -/
  | flagsFixedBits
  deriving DecidableEq, Repr

/-- The operation of an `OP` code (R60, R73). -/
def decodeOp (op : BitVec 3) : Instr :=
  match op.toNat with
  | 0 => .vli
  | 1 => .flg
  | 2 => .tse
  | 3 => .ide
  | 4 => .crc
  | 5 => .enc
  | 6 => .reservedOp6
  | _ => .reservedOp7

/-- A request's `OP` in the low 3 bits of a byte. -/
def decodeRequest : Bytes → Except DecodeError (Instr × Bytes)
  | [] => .error .noBytes
  | b :: rest => if b.toNat < 8 then .ok (decodeOp (b.setWidth 3), rest) else .error .opOutOfRange

/-- The signature byte (R65). -/
def decodeSignature : Bytes → Except DecodeError (Instr × Bytes)
  | [] => .error .noBytes
  | b :: rest => if b = Config.signature then .ok (.wireSignature, rest) else .error .notSignature

/-- The flags pattern `0010I0T0 00000sss` (R64). -/
def decodeFlags : Bytes → Except DecodeError (Instr × Bytes)
  | [] => .error .noBytes
  | [_] => .error .truncated
  | f0 :: f1 :: rest =>
    if f0 &&& 0xF5#8 = 0x20#8 ∧ f1 &&& 0xF8#8 = 0x00#8 then
      .ok (.wireFlags (f0.getLsbD 3) (f0.getLsbD 1) (f1.setWidth 3), rest)
    else .error .flagsFixedBits

/-- A variable-length integer (R62, R63): the size code is bits 7:6 of the first byte, bits 5:0 are the top value bits. -/
def decodeInteger : Bytes → Except DecodeError (Instr × Bytes)
  | [] => .error .noBytes
  | b0 :: rest =>
    match b0.toNat / 64, rest with
    | 0, r => .ok (.wireVli1 (b0.toNat % 64), r)
    | 1, b1 :: r => .ok (.wireVli2 (b0.toNat % 64 * 256 + b1.toNat), r)
    | 2, b1 :: b2 :: r => .ok (.wireVli3 ((b0.toNat % 64 * 256 + b1.toNat) * 256 + b2.toNat), r)
    | 3, b1 :: b2 :: b3 :: r =>
      .ok (.wireVli4 (((b0.toNat % 64 * 256 + b1.toNat) * 256 + b2.toNat) * 256 + b3.toNat), r)
    | _, _ => .error .truncated

/-- The instruction at a place, and the bytes after it. -/
def decode : Slot → Bytes → Except DecodeError (Instr × Bytes)
  | .request, bs => decodeRequest bs
  | .wire .signature, bs => decodeSignature bs
  | .wire .flags, bs => decodeFlags bs
  | .wire .integer, bs => decodeInteger bs

/-- The `OP` code in the low bits of a byte. -/
def requestByte (op : BitVec 3) : Byte := op.setWidth 8

/-- A size code in bits 7:6 above the six top value bits (R63). -/
def sizeCodeByte (code top : Nat) : Byte := Machine.byteOf (code * 64 + top)

/-- `FLAGS[0]` as the pattern of R64: version 2 in bits 7:4, `I` in bit 3, `T` in bit 1. -/
def flagsPattern0 (idPresent tsPresent : Bool) : Byte :=
  0x20#8 ||| (if idPresent then 0x08#8 else 0x00#8) ||| (if tsPresent then 0x02#8 else 0x00#8)

/-- `FLAGS[1]` as the pattern of R64: the status code in bits 2:0. -/
def flagsPattern1 (status : BitVec 3) : Byte := status.setWidth 8

/-- The bytes of an instruction, first byte first (R60, R62 to R65). -/
def encode : Instr → Bytes
  | .vli => [requestByte 0b000#3]
  | .flg => [requestByte 0b001#3]
  | .tse => [requestByte 0b010#3]
  | .ide => [requestByte 0b011#3]
  | .crc => [requestByte 0b100#3]
  | .enc => [requestByte 0b101#3]
  | .reservedOp6 => [requestByte 0b110#3]
  | .reservedOp7 => [requestByte 0b111#3]
  | .wireVli1 v => [sizeCodeByte 0 v]
  | .wireVli2 v => [sizeCodeByte 1 (v / 256), Machine.byteOf v]
  | .wireVli3 v => [sizeCodeByte 2 (v / 65536), Machine.byteOf (v / 256), Machine.byteOf v]
  | .wireVli4 v =>
    [sizeCodeByte 3 (v / 16777216), Machine.byteOf (v / 65536), Machine.byteOf (v / 256), Machine.byteOf v]
  | .wireSignature => [Config.signature]
  | .wireFlags i t s => [flagsPattern0 i t, flagsPattern1 s]

/-- The place a word of spec/opcode_table.json stands in. The table gives the `OP` rows and the one-byte wire rows the
same 8 bits, so a word below 8 is read as an `OP` code, `B3` as the signature, and any other byte as an integer
(DESIGN CHOICE, notes/assumptions/6.md); of the 16-bit words those with top bits `00` are flags. -/
def tableSlot (nbits w : Nat) : Slot :=
  if nbits ≤ 8 then
    if w < 8 then .request else if w = 0xB3 then .wire .signature else .wire .integer
  else if nbits = 16 ∧ w < 0x4000 then .wire .flags
  else .wire .integer

/-- The bytes of a word of spec/opcode_table.json. The table numbers a wire row as ONE word whose most significant byte
is the first byte on the wire (R62, R64), so the bytes are laid out big-endian (R40). -/
def tableBytes (nbits w : Nat) : Bytes := Machine.beBytes ((nbits + 7) / 8) w

/-- The instruction the decoder reads from a word of spec/opcode_table.json. -/
def decodeTableWord (nbits w : Nat) : Option Instr :=
  match decode (tableSlot nbits w) (tableBytes nbits w) with
  | .ok (i, _) => some i
  | .error _ => none

end Sys2Proof
end

