-- ==== Sys2Proof/Machine/State.lean ====
section
/-! DEFINITION. The state: the request registers (10_state.md R21), `BUSY` (R26), the working registers (R29), the
responses delivered (R27), what the block has written to the sink (R44), and, marked as the model's own, the inputs of
the host and of the sink and the results of the reference reader. The constants of R24 are fixed values, not state. -/

namespace Sys2Proof.Machine

/-- A byte-indexed space (10_state.md R32), as the cells that hold a byte; an index with no cell holds no byte
(DEDUCED, notes/assumptions/7.md). -/
abbrev Memory := List Host.Cell

/-- The canonical form: indices strictly rising. An unlisted index reads as no byte at all, so no cell can repeat what
an unlisted index reads as. -/
abbrev Memory.wf (m : Memory) : Prop := m.Pairwise (fun c d => c.1 < d.1)

/-- The request registers (R21). The host writes them all and issues the request; the block only reads them. -/
structure Request where
  /-- `OP`, 3 bits (R60). -/
  op : BitVec 3
  /-- `N`, `NW` bits: the integer to encode (R90). -/
  n : BitVec Config.nw
  /-- `IBUF`: the identifier or the message. -/
  ibuf : Memory
  /-- `IBUF_LEN`, `LW` bits: the number of bytes in `IBUF`; 0 means no identifier. -/
  ibufLen : BitVec Config.lw
  /-- `STATUS`: the status name. -/
  status : Memory
  /-- `STATUS_LEN`: the number of bytes in `STATUS`, 0 to `SMAX`. -/
  statusLen : BitVec Config.statusLenWidth
  /-- `TS_VALID`: whether the Event has a timestamp. -/
  tsValid : Bool
  /-- `TS_SEC`: seconds since the Unix epoch, unsigned. -/
  tsSec : BitVec 32
  /-- `TS_NSEC`: nanoseconds, 30 bits. -/
  tsNsec : BitVec 30
  deriving DecidableEq, Repr

/-- The response kinds (30_encoding.md R74). -/
inductive ResponseKind
  | ok
  | integerTooLarge
  | packetTooLarge
  | sinkWriteFailure
  deriving DecidableEq, Repr

/-- A response (R27): `RK`, `RES`, and `SINK_ERR`, which has a value for SinkWriteFailure only. -/
structure Response where
  kind : ResponseKind
  res : Bytes
  sinkErr : Option Config.SinkError
  deriving DecidableEq, Repr

/-- The sink's answer to one write (20_memory.md R45). -/
inductive SinkAnswer
  /-- The sink has received every byte in order. -/
  | ok
  /-- The sink rejected the write, with a failure value of its own. -/
  | fail (e : Config.SinkError)
  deriving DecidableEq, Repr

/-- The working registers (R29). -/
structure Work where
  /-- `FLAGS`, 2 bytes. -/
  flags : Bytes
  /-- `TSB`, the timestamp bytes. -/
  tsb : Bytes
  /-- `IDB`, the identifier bytes. -/
  idb : Bytes
  /-- `BASELEN`. -/
  baseLen : Nat
  /-- `L`, the final packet length. -/
  len : Nat
  /-- `LENB`, the length field. -/
  lenb : Bytes
  /-- `PKT`, the packet buffer. -/
  pkt : Bytes
  /-- `CRC_ACC`, the CRC shift register. -/
  crcAcc : BitVec 32
  deriving DecidableEq, Repr

/-- What the host does next (10_state.md R28; 70_reset_and_hazards.md R220). -/
inductive HostAction
  /-- Write every request register and issue the request. -/
  | request (r : Request)
  /-- Hand bytes of a packet field to the reference reader (R99, R171); the block takes no part in it. -/
  | wire (f : WireField) (bytes : Bytes)
  /-- Reset the block while it is idle (R210, R220). -/
  | reset
  deriving DecidableEq, Repr

/-- The results of the reference reader: what `vli_dec` (R99) and `parse` (R171) give for the field read last. The
model's own fields, not registers of the block (notes/assumptions/5.md). -/
structure Reader where
  /-- The last `vli_dec`: value and size, or no decoding (R99, R102). -/
  integer : Option (Nat × Nat)
  /-- A signature has been read (R171). -/
  signature : Bool
  /-- The version of the last flags read (R171). -/
  version : BitVec 4
  /-- The identifier-present bit of the last flags read (R171). -/
  idPresent : Bool
  /-- The timestamp-present bit of the last flags read (R171). -/
  tsPresent : Bool
  /-- The status code of the last flags read (R171). -/
  status : BitVec 3
  deriving DecidableEq, Repr

/-- The machine: the block, its outputs so far, and the inputs still to come. -/
structure State where
  /-- The request registers (R21). -/
  req : Request
  /-- `BUSY` (R26). -/
  busy : Bool
  /-- The working registers (R29); cleared whenever no operation is in progress (R186, R219). -/
  work : Work
  /-- Every packet the block has written to the sink, oldest first (R44). A record, as the next two are (DESIGN CHOICE,
  notes/assumptions/9.md). -/
  sinkWrites : List Bytes
  /-- Of those, the packets the sink accepted, oldest first (U6 of 93_implementation_defined.md). -/
  sinkLog : List Bytes
  /-- Every response delivered, oldest first (R27). -/
  responses : List Response
  /-- What the host will do, first action first (R28). The model's own (DESIGN CHOICE, notes/assumptions/3.md). -/
  host : List HostAction
  /-- What the sink will answer to the writes still unanswered and to come, first answer first (R33, U12). The
  model's own (DESIGN CHOICE, notes/assumptions/4.md). -/
  sinkAnswers : List SinkAnswer
  /-- The reference reader's results. The model's own. -/
  reader : Reader
  deriving DecidableEq, Repr

/-- Why the machine is stuck. -/
inductive Fault
  /-- An operation of the block while `BUSY = 1`: not accepted, no effect, no step (R213, U8: stuck). Raised by every
  operation of the block (DEDUCED, notes/assumptions/10.md). Safe: nothing about such a request can be proved. -/
  | requestWhileBusy
  deriving DecidableEq, Repr

/-- Why a step is given no meaning. -/
inductive Refusal
  /-- An instruction whose meaning is not modelled yet. Raised by an arm of `exec` only; no arm raises it now. Safe. -/
  | notModelled (mnemonic : String)
  /-- A request whose `OP` is `0b110` or `0b111` (R73 (a), R184). Raised by the two reserved operations. Safe. -/
  | reservedOperation (op : BitVec 3)
  /-- `TS_VALID = 1` with `TS_NSEC` of `10^9` or more (R73 (c), R128, R184). Raised by TSE and ENC. Safe. -/
  | nanosecondsOutOfContract
  /-- A byte of `IBUF` or `STATUS` that the host never wrote (R21, R184). Raised by FLG, IDE, CRC and ENC. Safe. -/
  | unwrittenByte
  /-- Bytes handed to the reference reader that are not the signature, or too few to be flags (R171: the parse stops).
  Raised by the fetch. Safe. -/
  | undecodable (e : DecodeError)
  deriving DecidableEq, Repr

/-- The request registers after reset. The spec leaves every one unspecified (R21, R34, R210). DESIGN CHOICE: zero, and
no byte in either buffer (notes/assumptions/1.md); every request the host issues overwrites them all. -/
def Request.reset : Request :=
  { op := 0, n := 0, ibuf := [], ibufLen := 0, status := [], statusLen := 0, tsValid := false, tsSec := 0, tsNsec := 0 }

/-- The working registers when no operation is in progress: the block holds nothing (R175, R219). The spec gives them no
value there (R29). DESIGN CHOICE: empty and zero (notes/assumptions/1.md). -/
def Work.cleared : Work :=
  { flags := [], tsb := [], idb := [], baseLen := 0, len := 0, lenb := [], pkt := [], crcAcc := 0 }

/-- The reader before it has read anything. The model's own. -/
def Reader.reset : Reader :=
  { integer := none, signature := false, version := 0, idPresent := false, tsPresent := false, status := 0 }

/-- The machine right after reset (R210): `BUSY = 0`, no response, no sink write; the host has asked for nothing yet. -/
def State.reset : State :=
  { req := Request.reset, busy := false, work := Work.cleared, sinkWrites := [], sinkLog := [], responses := [],
    host := [], sinkAnswers := [], reader := Reader.reset }

end Sys2Proof.Machine
end

