-- ==== Sys2Proof/Machine/Memory.lean ====
section
/-! DEFINITION. Reading and writing byte-indexed spaces: `MemRead` and `MemWrite` of 00_scope.md R12. -/

namespace Sys2Proof.Machine

/-- The byte at an index; none where nothing has been written. -/
def memByte : Memory → Nat → Option Byte
  | [], _ => none
  | (a', b) :: rest, a => if a = a' then some b else memByte rest a

/-- `MemRead(buf, i, n)` (R12): the `n` bytes at indices `i` to `i + n - 1`; none where one of them was never written. -/
def memRead (m : Memory) : Nat → Nat → Option Bytes
  | _, 0 => some []
  | i, n + 1 =>
    match memByte m i, memRead m (i + 1) n with
    | some b, some bs => some (b :: bs)
    | _, _ => none

/-- Places one byte, keeping the canonical form. -/
def memPut : Memory → Nat → Byte → Memory
  | [], a, b => [(a, b)]
  | (a', b') :: rest, a, b =>
    if a < a' then (a, b) :: (a', b') :: rest
    else if a = a' then (a, b) :: rest
    else (a', b') :: memPut rest a b

/-- `MemWrite(buf, o, n, v)` (R12): places the bytes of `v` at offsets `o` on. -/
def memWrite (m : Memory) : Nat → Bytes → Memory
  | _, [] => m
  | o, b :: bs => memWrite (memPut m o b) (o + 1) bs

/-- A buffer that holds a byte string from index 0 on, as the host fills `IBUF` and `STATUS` (R32). -/
def bufferOf (s : Bytes) : Memory := memWrite [] 0 s

end Sys2Proof.Machine
end

