-- ==== Sys2Proof/Machine/Ops.lean ====
section
/-! DEFINITION. The shared operations: the three ways an operation ends (60_exceptions.md R180 to R187), the response
(10_state.md R27), the one write to the sink and its answer (20_memory.md R44, R45), and reset while idle (R210). -/

namespace Sys2Proof.Machine

/-- The error kinds (R180). -/
inductive ErrorKind
  /-- R181. -/
  | integerTooLarge
  /-- R182. -/
  | packetTooLarge
  /-- R183, with the sink's failure value. -/
  | sinkWriteFailure (e : Config.SinkError)
  deriving DecidableEq, Repr

/-- Why an operation does not reach its result: it raises an error, which is a response, or the request is ill-formed
and has no response (R184). -/
inductive Stop
  | raised (k : ErrorKind)
  | refused (r : Refusal)
  deriving DecidableEq, Repr

/-- The outcome of one step of this machine. -/
abbrev Outcome := Host.Outcome State Fault Refusal

/-- The number of a response kind (R74). -/
def kindCode : ResponseKind → BitVec 2
  | .ok => 0b00#2
  | .integerTooLarge => 0b01#2
  | .packetTooLarge => 0b10#2
  | .sinkWriteFailure => 0b11#2

/-- The response that names an error: `RES` empty, `SINK_ERR` for SinkWriteFailure only (R27, R186 (b)). -/
def errorResponse : ErrorKind → Response
  | .integerTooLarge => { kind := .integerTooLarge, res := [], sinkErr := none }
  | .packetTooLarge => { kind := .packetTooLarge, res := [], sinkErr := none }
  | .sinkWriteFailure e => { kind := .sinkWriteFailure, res := [], sinkErr := some e }

/-- The end of an operation (R219): the response is delivered, every working value is discarded, `BUSY = 0`. -/
def respond (r : Response) (s : State) : State :=
  { s with busy := false, work := Work.cleared, responses := s.responses ++ [r] }

/-- `return s` of R12: the response OK with result bytes. -/
def deliver (res : Bytes) (s : State) : State := respond { kind := .ok, res := res, sinkErr := none } s

/-- `raise` of R12, the entry of R186: nothing is saved, the working values are discarded, the response names the kind.
There is no return from it (R187): the next request starts afresh. -/
def raiseError (k : ErrorKind) (s : State) : State := respond (errorResponse k) s

/-- An operation is accepted only when `BUSY = 0` (R26, R213). -/
def whenIdle (s : State) (run : Outcome) : Outcome := if s.busy then .fault .requestWhileBusy else run

/-- An operation that ends with a byte string on `RES`, an error response, or no response (VLI, FLG, TSE, IDE, CRC). -/
def unitOperation (s : State) (result : Except Stop Bytes) : Outcome :=
  whenIdle s
    (match result with
    | .ok res => .next (deliver res s)
    | .error (.raised k) => .next (raiseError k s)
    | .error (.refused r) => .refused r)

/-- What the sink's answer to the outstanding write does (R45, R163): `ok` ends the operation with OK and an empty `RES`,
a failure is passed on unchanged. -/
def answerSink (a : SinkAnswer) (s : State) : State :=
  match a with
  | .ok => deliver [] { s with sinkLog := s.sinkLog ++ [s.work.pkt] }
  | .fail e => raiseError (.sinkWriteFailure e) s

/-- The outstanding write meets the sink's next answer, or goes on waiting for one (R217, R218). -/
def awaitSink (s : State) : State :=
  match s.sinkAnswers with
  | [] => s
  | a :: rest => answerSink a { s with sinkAnswers := rest }

/-- `SinkWrite` (R12, R44): one write of the whole packet; the operation stays in progress until the sink answers. -/
def sinkWrite (w : Work) (s : State) : State :=
  awaitSink { s with busy := true, work := w, sinkWrites := s.sinkWrites ++ [w.pkt] }

/-- Reset of an idle block (R210): the registers take their reset values, no response and no sink write is made. What the
sink and the host hold is not the block's and stays (DESIGN CHOICE, notes/assumptions/14.md). -/
def resetBlock (s : State) : State := { s with req := Request.reset, busy := false, work := Work.cleared }

end Sys2Proof.Machine
end

