-- ==== Sys2Proof/Machine/Vli.lean ====
section
/-! DEFINITION. The variable-length integer (40_vli.md): the one encoding routine of the block, its size, the reference
decoder, and the operation VLI. -/

namespace Sys2Proof.Machine

/-- `vli(n)` for `n` up to `VLI_MAX` (R91 to R95). -/
def vliBytes (n : Nat) : Bytes :=
  if n < 64 then [byteOf n]
  else if n < 16384 then beBytes 2 (n ||| 0x4000)
  else if n < 4194304 then byteOf ((n >>> 16) ||| 0x80) :: beBytes 2 (n &&& 0xFFFF)
  else beBytes 4 (n ||| 0xC0000000)

/-- The checked call of `vli`: IntegerTooLarge from `2^30` on (R96). -/
def vliChecked (n : Nat) : Except Stop Bytes :=
  if 1073741824 ≤ n then .error (.raised .integerTooLarge) else .ok (vliBytes n)

/-- `vli_size(n)` by the table of R98, for `n` up to `VLI_MAX`. -/
def vliSize (n : Nat) : Nat :=
  if n ≤ 63 then 1 else if n ≤ 16383 then 2 else if n ≤ 4194303 then 3 else 4

/-- The reference decoder `vli_dec` (R99): value and size, or no decoding (R102). -/
def vliDec : Bytes → Option (Nat × Nat)
  | [] => none
  | b0 :: rest =>
    let k := (b0.toNat >>> 6) + 1
    if rest.length + 1 < k then none
    else some (beFold (b0.toNat &&& 0x3F) (rest.take (k - 1)), k)

/-- Operation VLI (R90). -/
def execVli (s : State) : Outcome := unitOperation s (vliChecked s.req.n.toNat)

end Sys2Proof.Machine
end

