-- ==== Sys2Proof/Machine/Operands.lean ====
section
/-! DEFINITION. The operands: the request registers as the operations read them (10_state.md R21, R22), with the
refusals of an ill-formed request (60_exceptions.md R184). A register an operation does not read is not checked (R61). -/

namespace Sys2Proof.Machine

/-- An identifier is present exactly when `IBUF_LEN` is not 0 (R113). -/
def idPresent (r : Request) : Bool := r.ibufLen.toNat != 0

/-- Bytes read from a buffer, or the refusal of R184 where the host never wrote one of them. -/
def readBuffer (m : Memory) (n : Nat) : Except Stop Bytes :=
  match memRead m 0 n with
  | some bs => .ok bs
  | none => .error (.refused .unwrittenByte)

/-- The status name: the `STATUS_LEN` bytes of `STATUS` (R22). -/
def statusName (r : Request) : Except Stop Bytes := readBuffer r.status r.statusLen.toNat

/-- The message: the `IBUF_LEN` bytes of `IBUF` (R140). -/
def message (r : Request) : Except Stop Bytes := readBuffer r.ibuf r.ibufLen.toNat

/-- The contract on the nanoseconds, checked only where they are read (R128, R184). -/
def timestampInContract (r : Request) : Bool := !r.tsValid || decide (r.tsNsec.toNat < 1000000000)

end Sys2Proof.Machine
end

