-- ==== Sys2Proof/Machine/Crc.lean ====
section
/-! DEFINITION. The IEEE CRC-32 generator (43_crc32.md) and the operation CRC. -/

namespace Sys2Proof.Machine

/-- One conditional shift of `CRC_ACC` (R142; PRESUMED by the spec, notes/assumptions/12.md). -/
def crcBit (acc : BitVec 32) : BitVec 32 := if acc.getLsbD 0 then (acc >>> 1) ^^^ 0xEDB88320#32 else acc >>> 1

/-- So many shifts, one after the other. -/
def crcShift : Nat → BitVec 32 → BitVec 32
  | 0, acc => acc
  | k + 1, acc => crcShift k (crcBit acc)

/-- One message byte: it enters the low 8 bits, then eight shifts (R142). -/
def crcByte (acc : BitVec 32) (b : Byte) : BitVec 32 := crcShift 8 (acc ^^^ b.setWidth 32)

/-- `CRC_ACC` after the bytes of a message, in index order, from `0xFFFFFFFF` (R142). -/
def crcRegister (m : Bytes) : BitVec 32 := m.foldl crcByte 0xFFFFFFFF#32

/-- `crc32(m)` (R141, R142). -/
def crc32 (m : Bytes) : BitVec 32 := crcRegister m ^^^ 0xFFFFFFFF#32

/-- The table `T[b]` of R143. -/
def crcTable (b : Byte) : BitVec 32 := crcShift 8 (b.setWidth 32)

/-- One message byte in the table form (R143). -/
def crcTableByte (acc : BitVec 32) (b : Byte) : BitVec 32 := (acc >>> 8) ^^^ crcTable ((acc ^^^ b.setWidth 32).setWidth 8)

/-- `crc32(m)` in the table form (R143). -/
def crc32ByTable (m : Bytes) : BitVec 32 := m.foldl crcTableByte 0xFFFFFFFF#32 ^^^ 0xFFFFFFFF#32

/-- The checksum bytes, most significant first (R144). -/
def checksum (m : Bytes) : Bytes := beBytes 4 (crc32 m).toNat

/-- The result of the operation CRC (R140). -/
def requestChecksum (r : Request) : Except Stop Bytes :=
  match message r with
  | .ok m => .ok (checksum m)
  | .error e => .error e

/-- Operation CRC (R140). -/
def execCrc (s : State) : Outcome := unitOperation s (requestChecksum s.req)

end Sys2Proof.Machine
end

