-- ==== Sys2Proof/Machine/Flags.lean ====
section
/-! DEFINITION. The flag bit-field marshaller (41_flags.md): the status code table, the two flags bytes, and the
operation FLG. The block has no machine flags and no condition codes (10_state.md R30). -/

namespace Sys2Proof.Machine

/-- `STATUS_TABLE` (R24, R25, R115): the eight names in ASCII with their codes. -/
def statusTable : List (Bytes × BitVec 3) :=
  [ ([0x75#8, 0x6E#8, 0x64#8, 0x65#8, 0x66#8, 0x69#8, 0x6E#8, 0x65#8, 0x64#8], 0#3),
    ([0x65#8, 0x78#8, 0x69#8, 0x73#8, 0x74#8, 0x73#8], 1#3),
    ([0x69#8, 0x6E#8, 0x70#8, 0x72#8, 0x6F#8, 0x67#8, 0x72#8, 0x65#8, 0x73#8, 0x73#8], 2#3),
    ([0x73#8, 0x75#8, 0x63#8, 0x63#8, 0x65#8, 0x73#8, 0x73#8], 3#3),
    ([0x75#8, 0x78#8, 0x73#8, 0x75#8, 0x63#8, 0x63#8, 0x65#8, 0x73#8, 0x73#8], 4#3),
    ([0x73#8, 0x6B#8, 0x69#8, 0x70#8], 5#3),
    ([0x66#8, 0x61#8, 0x69#8, 0x6C#8], 6#3),
    ([0x78#8, 0x66#8, 0x61#8, 0x69#8, 0x6C#8], 7#3) ]

/-- The code of a name in a table of names, 0 where no name is equal to it in full (R114). -/
def lookupStatus : List (Bytes × BitVec 3) → Bytes → BitVec 3
  | [], _ => 0#3
  | (known, code) :: rest, name => if name = known then code else lookupStatus rest name

/-- `status_code(name)` (R114): exact, case-sensitive comparison, default 0. -/
def statusCode (name : Bytes) : BitVec 3 := lookupStatus statusTable name

/-- `FLAGS[0]` (R111): version 2 in bits 7:4, bit 3 the identifier, bit 1 the timestamp. -/
def flags0 (idPresent tsPresent : Bool) : Byte :=
  let b0 := (Config.version.setWidth 8) <<< 4
  let b0 := if idPresent then b0 ||| 0x08#8 else b0
  if tsPresent then b0 ||| 0x02#8 else b0

/-- `FLAGS[1]` (R112): the status code in bits 2:0. -/
def flags1 (name : Bytes) : Byte := (statusCode name).setWidth 8

/-- `flags(id_present, ts_present, status_name)` (R110). -/
def flags (idPresent tsPresent : Bool) (name : Bytes) : Bytes := [flags0 idPresent tsPresent, flags1 name]

/-- The flags as one 16-bit value (R117). -/
def flags16 (idPresent tsPresent : Bool) (name : Bytes) : Nat :=
  0x2000 ||| (if idPresent then 0x0800 else 0) ||| (if tsPresent then 0x0200 else 0) ||| (statusCode name).toNat

/-- The flags of a request: presence from `IBUF_LEN` and `TS_VALID` (R113), never from the content (R118). -/
def requestFlags (r : Request) : Except Stop Bytes :=
  match statusName r with
  | .ok name => .ok (flags (idPresent r) r.tsValid name)
  | .error e => .error e

/-- Operation FLG (R110). -/
def execFlg (s : State) : Outcome := unitOperation s (requestFlags s.req)

end Sys2Proof.Machine
end

