-- ==== Sys2Proof/Machine/Subfields.lean ====
section
/-! DEFINITION. The timestamp and identifier sub-encoders (42_subfields.md) and the operations TSE and IDE. -/

namespace Sys2Proof.Machine

/-- `ts_bytes(valid, sec, nsec)` (R125 to R127). -/
def tsBytes (valid : Bool) (sec nsec : Nat) : Bytes := if valid then beBytes 4 sec ++ vliBytes nsec else []

/-- The timestamp bytes of a request, refused where the nanoseconds break the contract (R128). -/
def requestTimestamp (r : Request) : Except Stop Bytes :=
  if timestampInContract r then .ok (tsBytes r.tsValid r.tsSec.toNat r.tsNsec.toNat)
  else .error (.refused .nanosecondsOutOfContract)

/-- `id_bytes(buf, n)` (R130 to R134). The length is checked before any byte of the buffer is read. -/
def idBytes (buf : Memory) (n : Nat) : Except Stop Bytes :=
  if n = 0 then .ok []
  else
    match vliChecked n with
    | .error e => .error e
    | .ok lengthPrefix =>
      match readBuffer buf n with
      | .error e => .error e
      | .ok bs => .ok (lengthPrefix ++ bs)

/-- Operation TSE (R125). -/
def execTse (s : State) : Outcome := unitOperation s (requestTimestamp s.req)

/-- Operation IDE (R130). -/
def execIde (s : State) : Outcome := unitOperation s (idBytes s.req.ibuf s.req.ibufLen.toNat)

end Sys2Proof.Machine
end

