-- ==== Sys2Proof/Machine/Frame.lean ====
section
/-! DEFINITION. The packet frame assembler (44_frame.md): the seven steps of ENC. -/

namespace Sys2Proof.Machine

/-- The provisional body of step 1 (R156): signature, flags, timestamp bytes, identifier bytes. -/
def provisionalBody (fl tsb idb : Bytes) : Bytes := [Config.signature] ++ fl ++ tsb ++ idb

/-- Step 3 (R158): the final length from `BASELEN` by the fixed thresholds, none where the packet is too large. -/
def finalLength (baseLen : Nat) : Option Nat :=
  if baseLen ≤ 62 then some (baseLen + 1)
  else if baseLen ≤ 16381 then some (baseLen + 2)
  else if baseLen ≤ 4194300 then some (baseLen + 3)
  else none

/-- The body of step 4 (R160): the length field spliced in between the flags and the timestamp bytes. -/
def packetBody (fl lenb tsb idb : Bytes) : Bytes := [Config.signature] ++ fl ++ lenb ++ tsb ++ idb

/-- Steps 2 to 6 (R157 to R162): the working registers with the finished packet, from the three sub-fields. -/
def assemble (fl tsb idb : Bytes) : Except Stop Work :=
  let baseLen := (provisionalBody fl tsb idb).length + 4
  match finalLength baseLen with
  | none => .error (.raised .packetTooLarge)
  | some len =>
    let lenb := vliBytes len
    let body := packetBody fl lenb tsb idb
    .ok { flags := fl, tsb := tsb, idb := idb, baseLen := baseLen, len := len, lenb := lenb,
          pkt := body ++ checksum body, crcAcc := crcRegister body }

/-- Steps 2 to 6 in terms of the packet buffer, as R160 and R162 write them: `PKT` filled by `MemWrite` at the offsets
of 20_memory.md R46. -/
def fillPacketBuffer (fl lenb tsb idb crc : Bytes) : Memory :=
  let k := lenb.length
  let t := tsb.length
  let d := idb.length
  let m := memWrite [] 0 [Config.signature]
  let m := memWrite m 1 fl
  let m := memWrite m 3 lenb
  let m := memWrite m (3 + k) tsb
  let m := memWrite m (3 + k + t) idb
  memWrite m (3 + k + t + d) crc

/-- Steps 1 to 6 of ENC (R155). An ill-formed request is refused before anything else; then IntegerTooLarge in step 1
comes before PacketTooLarge in step 3 (R172, R185). The order of the refusals is the model's (DESIGN CHOICE,
notes/assumptions/11.md). -/
def buildPacket (r : Request) : Except Stop Work :=
  match requestTimestamp r with
  | .error e => .error e
  | .ok tsb =>
    match requestFlags r with
    | .error e => .error e
    | .ok fl =>
      match idBytes r.ibuf r.ibufLen.toNat with
      | .error e => .error e
      | .ok idb => assemble fl tsb idb

/-- Operation ENC (R155): the packet is built and written to the sink once. -/
def execEnc (s : State) : Outcome :=
  whenIdle s
    (match buildPacket s.req with
    | .ok w => .next (sinkWrite w s)
    | .error (.raised k) => .next (raiseError k s)
    | .error (.refused r) => .refused r)

end Sys2Proof.Machine
end

