-- ==== Sys2Proof/Machine/Reader.lean ====
section
/-! DEFINITION. The reference reader: what the wire patterns mean to whoever reads them (40_vli.md R99, 44_frame.md
R171). It is a test agent beside the block: it reads and changes nothing of the block (R6, R70). -/

namespace Sys2Proof.Machine

/-- What the reference parse returns (R171). -/
structure Parsed where
  version : BitVec 4
  status : BitVec 3
  timestamp : Option (Nat × Nat)
  identifier : Bytes
  deriving DecidableEq, Repr

/-- The timestamp field where the flags announce one: seconds and nanoseconds, and the bytes after it. -/
def parseTimestamp (present : Bool) (s : Bytes) : Option (Option (Nat × Nat) × Bytes) :=
  if present then
    match vliDec (s.drop 4) with
    | none => none
    | some (nsec, k) => some (some (beNat (s.take 4), nsec), (s.drop 4).drop k)
  else some (none, s)

/-- The identifier field where the flags announce one: its bytes, and the bytes after it. -/
def parseIdentifier (present : Bool) (s : Bytes) : Option (Bytes × Bytes) :=
  if present then
    match vliDec s with
    | none => none
    | some (n, k) => if (s.drop k).length < n then none else some ((s.drop k).take n, (s.drop k).drop n)
  else some ([], s)

/-- The reference parse of a packet (R171); none at the first `require` that fails. -/
def parse (p : Bytes) : Option Parsed :=
  match p with
  | sig :: f0 :: f1 :: rest =>
    if p.length < 8 ∨ sig ≠ Config.signature then none
    else
      match vliDec rest with
      | none => none
      | some (len, k) =>
        if len ≠ p.length then none
        else
          match parseTimestamp (f0.getLsbD 1) (rest.drop k) with
          | none => none
          | some (ts, afterTs) =>
            match parseIdentifier (f0.getLsbD 3) afterTs with
            | none => none
            | some (ident, afterId) =>
              if afterId.length ≠ 4 then none
              else if afterId ≠ checksum (p.take (p.length - 4)) then none
              else
                some { version := f0.extractLsb' 4 4, status := f1.setWidth 3, timestamp := ts, identifier := ident }
  | _ => none

/-- The reader reads an integer field: `vli_dec` of its bytes (R99). -/
def readInteger (bytes : Bytes) (s : State) : State :=
  { s with reader := { s.reader with integer := vliDec bytes } }

/-- The reader reads the flags: version, presence bits and status code (R171). -/
def readFlags (f0 f1 : Byte) (s : State) : State :=
  { s with
    reader :=
      { s.reader with
        version := f0.extractLsb' 4 4, idPresent := f0.getLsbD 3, tsPresent := f0.getLsbD 1, status := f1.setWidth 3 } }

/-- The reader reads the signature (R171). -/
def readSignature (s : State) : State := { s with reader := { s.reader with signature := true } }

/-- What the reader does with bytes that match no wire pattern, which the block never emits: an integer cut short has no
decoding (R102); flags with other fixed bits are read all the same, since the parse of R171 looks at no reserved bit (U1
of 93_implementation_defined.md); at any other signature, and at flags cut short, the parse stops. -/
def readUnmatched : WireField → Bytes → State → Option State
  | .integer, bytes, s => some (readInteger bytes s)
  | .flags, f0 :: f1 :: _, s => some (readFlags f0 f1 s)
  | .flags, [_], _ => none
  | .flags, [], _ => none
  | .signature, _, _ => none

/-- A one-byte integer is read (R92, R99). -/
def execWireVli1 (v : Nat) (s : State) : Outcome := .next (readInteger (encode (.wireVli1 v)) s)

/-- A two-byte integer is read (R93, R99). -/
def execWireVli2 (v : Nat) (s : State) : Outcome := .next (readInteger (encode (.wireVli2 v)) s)

/-- A three-byte integer is read (R94, R99). -/
def execWireVli3 (v : Nat) (s : State) : Outcome := .next (readInteger (encode (.wireVli3 v)) s)

/-- A four-byte integer is read (R95, R99). -/
def execWireVli4 (v : Nat) (s : State) : Outcome := .next (readInteger (encode (.wireVli4 v)) s)

/-- A signature is read (R65, R171). -/
def execWireSignature (s : State) : Outcome := .next (readSignature s)

/-- Flags are read (R64, R171). -/
def execWireFlags (idPresent tsPresent : Bool) (status : BitVec 3) (s : State) : Outcome :=
  .next (readFlags (flagsPattern0 idPresent tsPresent) (flagsPattern1 status) s)

end Sys2Proof.Machine
end

