-- ==== Sys2Proof/Machine/Reserved.lean ====
section
/-! DEFINITION. The two reserved `OP` codes (30_encoding.md R73 (a), 60_exceptions.md R184): they select no operation,
the request is refused, no response and no sink write is made. -/

namespace Sys2Proof.Machine

/-- A request that selects no operation, in any state (DEDUCED, notes/assumptions/13.md). -/
def refuseReserved (op : BitVec 3) : Outcome := .refused (.reservedOperation op)

/-- `OP = 0b110` (R73 (a)). -/
def execReservedOp6 (_ : State) : Outcome := refuseReserved 0b110#3

/-- `OP = 0b111` (R73 (a)). -/
def execReservedOp7 (_ : State) : Outcome := refuseReserved 0b111#3

end Sys2Proof.Machine
end

