-- ==== Sys2Proof/Machine/Dispatch.lean ====
section
/-! DEFINITION. The meaning of every instruction, one arm per constructor. -/

namespace Sys2Proof.Machine

def exec (i : Instr) (s : State) : Host.Outcome State Fault Refusal :=
  match i with
  | .vli => Sys2Proof.Machine.execVli s
  | .flg => Sys2Proof.Machine.execFlg s
  | .tse => Sys2Proof.Machine.execTse s
  | .ide => Sys2Proof.Machine.execIde s
  | .crc => Sys2Proof.Machine.execCrc s
  | .enc => Sys2Proof.Machine.execEnc s
  | .reservedOp6 => Sys2Proof.Machine.execReservedOp6 s
  | .reservedOp7 => Sys2Proof.Machine.execReservedOp7 s
  | .wireVli1 v => Sys2Proof.Machine.execWireVli1 v s
  | .wireVli2 v => Sys2Proof.Machine.execWireVli2 v s
  | .wireVli3 v => Sys2Proof.Machine.execWireVli3 v s
  | .wireVli4 v => Sys2Proof.Machine.execWireVli4 v s
  | .wireSignature => Sys2Proof.Machine.execWireSignature s
  | .wireFlags idPresent tsPresent status => Sys2Proof.Machine.execWireFlags idPresent tsPresent status s

end Sys2Proof.Machine
end

