-- ==== Sys2Proof/Machine/Fetch.lean ====
section
/-! DEFINITION. How the next instruction is found. The block fetches no instructions (20_memory.md R51): a program is
the host's sequence of requests, each after the response of the one before (10_state.md R28). -/

namespace Sys2Proof.Machine

/-- What the host does in this step. -/
inductive Fetched
  /-- Nothing: between operations nothing happens (R221). -/
  | idle
  /-- A reset of the idle block, done (R210). -/
  | reset (s' : State)
  /-- Bytes of no wire pattern that the reference reader reads all the same (R102, R171). -/
  | unmatched (s' : State)
  /-- Bytes at which the reference parse stops (R171). -/
  | undecodable (e : DecodeError)
  /-- An instruction, and the state it runs in: the action taken, the request registers written. -/
  | instr (i : Instr) (s' : State)
  deriving DecidableEq, Repr

/-- A request reaches the block: every request register takes the host's value and `OP` selects the operation (R21, R60). -/
def fetchRequest (r : Request) (s : State) : Fetched :=
  match decode .request [requestByte r.op] with
  | .ok (i, _) => .instr i { s with req := r }
  | .error e => .undecodable e

/-- Bytes reach the reference reader; bytes after the field are not looked at (R99). -/
def fetchWire (f : WireField) (bytes : Bytes) (s : State) : Fetched :=
  match decode (.wire f) bytes with
  | .ok (i, _) => .instr i s
  | .error e =>
    match readUnmatched f bytes s with
    | some s' => .unmatched s'
    | none => .undecodable e

/-- The host's next action, taken off its list. -/
def fetch (s : State) : Fetched :=
  match s.host with
  | [] => .idle
  | .request r :: rest => fetchRequest r { s with host := rest }
  | .wire f bytes :: rest => fetchWire f bytes { s with host := rest }
  | .reset :: rest => .reset (resetBlock { s with host := rest })

/-- The host action that brings a word of spec/opcode_table.json to where `fetch` looks: a request that writes every
register with the value it holds and `OP` with the word, or bytes of a packet field. -/
def wordAction (nbits w : Nat) (s : State) : HostAction :=
  match tableSlot nbits w with
  | .request => .request { s.req with op := BitVec.ofNat 3 w }
  | .wire f => .wire f (tableBytes nbits w)

end Sys2Proof.Machine
end

