-- ==== Sys2Proof/Machine/Step.lean ====
section
/-! DEFINITION. One step: an operation in progress waits for the sink's answer (70_reset_and_hazards.md R218); an idle
machine takes the host's next action. -/

namespace Sys2Proof.Machine

/-- One step of the machine. -/
def step (s : State) : Host.Outcome State Fault Refusal :=
  if s.busy then .next (awaitSink s)
  else
    match fetch s with
    | .idle => .next s
    | .reset s' => .next s'
    | .unmatched s' => .next s'
    | .undecodable e => .refused (.undecodable e)
    | .instr i s' => exec i s'

/-- The state with a word of spec/opcode_table.json as the host's next action, and the block idle, so that the next step
runs exactly that instruction. -/
def State.withFetchWord (s : State) (nbits w : Nat) : State :=
  { s with busy := false, work := Work.cleared, host := wordAction nbits w s :: s.host }

end Sys2Proof.Machine
end

