-- ==== Sys2Proof/Safety.lean ====
section
/-! DEFINITION. The terms claims are stated in: what a request must hold to be well-formed (60_exceptions.md R184), how
an operation ends, which packets are valid (44_frame.md R164, R171), and the invariants of a run. -/

namespace Sys2Proof.Machine

/-- The status name of a request: every byte of it has been written (R22, R184). -/
def Request.HasStatus (r : Request) (name : Bytes) : Prop := memRead r.status 0 r.statusLen.toNat = some name

/-- The identifier or message of a request: every byte of it has been written (R22, R184). -/
def Request.HasBuffer (r : Request) (bs : Bytes) : Prop := memRead r.ibuf 0 r.ibufLen.toNat = some bs

/-- The nanoseconds of a present timestamp are below `10^9` (R128, R184). -/
def Request.InContract (r : Request) : Prop := r.tsValid = true → r.tsNsec.toNat < 1000000000

/-- `len(TSB)` of a well-formed request (R129). -/
def Request.timestampLength (r : Request) : Nat := if r.tsValid then 4 + vliSize r.tsNsec.toNat else 0

/-- The operation ran and delivered exactly one response, of this kind (R185). -/
def EndsWith (o : Outcome) (s : State) (k : ResponseKind) : Prop :=
  ∃ t res e, o = .next t ∧ t.responses = s.responses ++ [{ kind := k, res := res, sinkErr := e }]

/-- The operation ran and delivered exactly one response, OK with these bytes on `RES` (R27). -/
def Returns (o : Outcome) (s : State) (res : Bytes) : Prop :=
  ∃ t, o = .next t ∧ t.responses = s.responses ++ [{ kind := .ok, res := res, sinkErr := none }]

/-- The bytes of a text, letter by letter, in ASCII (R115, D9). -/
def asciiBytes (text : List Char) : Bytes := text.map (fun c => BitVec.ofNat 8 c.toNat)

/-- Two requests that agree on every register the operation reads (R60, the column "reads"); seconds and nanoseconds are
read only where `TS_VALID = 1` (R21). -/
def AgreeOnOperands (i : Instr) (r q : Request) : Prop :=
  match i with
  | .vli => r.n = q.n
  | .flg => r.ibufLen = q.ibufLen ∧ r.tsValid = q.tsValid ∧ r.status = q.status ∧ r.statusLen = q.statusLen
  | .tse => r.tsValid = q.tsValid ∧ (r.tsValid = true → r.tsSec = q.tsSec ∧ r.tsNsec = q.tsNsec)
  | .ide => r.ibuf = q.ibuf ∧ r.ibufLen = q.ibufLen
  | .crc => r.ibuf = q.ibuf ∧ r.ibufLen = q.ibufLen
  | .enc =>
    r.ibuf = q.ibuf ∧ r.ibufLen = q.ibufLen ∧ r.status = q.status ∧ r.statusLen = q.statusLen ∧ r.tsValid = q.tsValid ∧
    (r.tsValid = true → r.tsSec = q.tsSec ∧ r.tsNsec = q.tsNsec)
  | .reservedOp6 => True
  | .reservedOp7 => True
  | .wireVli1 _ => True
  | .wireVli2 _ => True
  | .wireVli3 _ => True
  | .wireVli4 _ => True
  | .wireSignature => True
  | .wireFlags _ _ _ => True

/-- Two requests whose Event registers hold the same Event (R22), up to the spelling of the status name (R169). -/
def SameEvent (r q : Request) : Prop :=
  r.ibufLen = q.ibufLen ∧ memRead r.ibuf 0 r.ibufLen.toNat = memRead q.ibuf 0 q.ibufLen.toNat ∧
  (∃ n m, r.HasStatus n ∧ q.HasStatus m ∧ statusCode n = statusCode m) ∧
  r.tsValid = q.tsValid ∧ r.tsSec = q.tsSec ∧ r.tsNsec = q.tsNsec

/-- The reference parse accepts the packet, as one of version 2 (R171). -/
def ValidPacket (p : Bytes) : Prop := ∃ q, parse p = some q ∧ q.version = Config.version

/-- Cuts a stream of packets by the length field of each (R70, R176); `fuel` bounds the number of packets. -/
def cutPackets : Nat → Bytes → Option (List Bytes)
  | _, [] => some []
  | 0, _ :: _ => none
  | fuel + 1, b :: s =>
    match vliDec ((b :: s).drop 3) with
    | none => none
    | some (len, _) =>
      if len = 0 ∨ (b :: s).length < len then none
      else (cutPackets fuel ((b :: s).drop len)).map (fun ps => (b :: s).take len :: ps)

/-- The buffers of a request are in canonical form. -/
def Request.Canonical (r : Request) : Prop := Memory.wf r.ibuf ∧ Memory.wf r.status

/-- Every buffer of the machine and of the requests the host will issue is in canonical form. -/
def CanonicalMemory (s : State) : Prop :=
  s.req.Canonical ∧ ∀ r, HostAction.request r ∈ s.host → r.Canonical

/-- Between operations the block holds nothing; an operation in progress is an ENC whose packet, built from the request
registers, has been written to the sink and not been answered (R20, R29, R175, R218). -/
def WorkFollowsBusy (s : State) : Prop :=
  (s.busy = false → s.work = Work.cleared) ∧
  (s.busy = true → buildPacket s.req = .ok s.work ∧ ∃ earlier, s.sinkWrites = earlier ++ [s.work.pkt])

/-- Every packet written to the sink is valid (R164, R174). -/
def SentPacketsValid (s : State) : Prop := ∀ p ∈ s.sinkWrites, ValidPacket p

/-- The sink has accepted only packets the block wrote, in the order it wrote them, and never the unanswered one. -/
def LogFollowsWrites (s : State) : Prop :=
  (s.busy = false → s.sinkLog.Sublist s.sinkWrites) ∧
  (s.busy = true → ∃ earlier, s.sinkWrites = earlier ++ [s.work.pkt] ∧ s.sinkLog.Sublist earlier)

/-- `RES` is empty whenever `RK` is not OK, and `SINK_ERR` has a value exactly for SinkWriteFailure (R27). -/
def ResponseShape (r : Response) : Prop :=
  (r.kind ≠ .ok → r.res = []) ∧ (r.sinkErr.isSome = true ↔ r.kind = .sinkWriteFailure)

/-- Every response delivered has the form of R27. -/
def ResponsesShaped (s : State) : Prop := ∀ r ∈ s.responses, ResponseShape r

end Sys2Proof.Machine
end

