-- ==== Sys2Proof/Certificates/Slice0/Obligations.lean ====
section
/-! DEFINITION. The statements for the provers. Where a next state is written `{ s with … }`, the update lists everything
the instruction changes: every field it does not list is unchanged. The rules R97, R98, R100, R101, R117, R118, R129,
R135 to R137, R143, R146, R164 to R166, R168, R170, R171, R173 and R218 are marked by the spec as its own derivations
from other rules; a statement that formalises one of them is of basis 'derived'. The lists of host actions and of sink
answers and the records of writes and responses are the model's (notes/assumptions/3.md, 4.md and 9.md). That the block
holds nothing after an operation is R175's and R219's; that this is written `work := Work.cleared`, empty and zero, is the
model's choice (DESIGN CHOICE, notes/assumptions/1.md) wherever it stands. -/

open Sys2Proof Sys2Proof.Machine

/-! ### Decoding, fetching and stepping -/

/-- Decode and encode agree, every field at every value the encoding admits, whatever follows (30_encoding.md R60, R62,
R64, R65). -/
def Obligations.DecodeInvertsEncode : Prop :=
  ∀ (i : Instr) (rest : Bytes), i.wf = true → decode i.slot (encode i ++ rest) = .ok (i, rest)

/-- The other direction: what the decoder accepts at a place is a well-formed instruction of that place and its own
encoding, with the bytes after it left over. -/
def Obligations.EncodeInvertsDecode : Prop :=
  ∀ (place : Slot) (bs : Bytes) (i : Instr) (rest : Bytes),
    decode place bs = .ok (i, rest) → i.wf = true ∧ i.slot = place ∧ bs = encode i ++ rest

/-- Bytes written out from the encodings decode to the instruction they stand for. The wire patterns are the spec's (R62,
R64, R65); that a request's `OP` stands in the low 3 bits of a byte is the model's choice (DESIGN CHOICE,
notes/assumptions/6.md): R60 gives it 3 bits and no byte. -/
def Obligations.SpecWordsDecode : Prop :=
  decode .request [0x00#8] = .ok (.vli, []) ∧
  decode .request [0x05#8] = .ok (.enc, []) ∧
  decode .request [0x06#8] = .ok (.reservedOp6, []) ∧
  decode (.wire .integer) [0x3F#8] = .ok (.wireVli1 63, []) ∧
  decode (.wire .integer) [0x7F#8, 0xFF#8] = .ok (.wireVli2 16383, []) ∧
  decode (.wire .integer) [0x81#8, 0x00#8, 0x00#8] = .ok (.wireVli3 65536, []) ∧
  decode (.wire .integer) [0xFB#8, 0x9A#8, 0xC9#8, 0xFF#8] = .ok (.wireVli4 999999999, []) ∧
  decode (.wire .signature) [0xB3#8] = .ok (.wireSignature, []) ∧
  decode (.wire .flags) [0x28#8, 0x03#8] = .ok (.wireFlags true false 3#3, []) ∧
  decode (.wire .flags) [0x22#8, 0x04#8] = .ok (.wireFlags false true 4#3, [])

/-- A step of an idle machine runs the instruction that the host's next action decodes to: a request, with every request
register at the host's value, or a packet field handed to the reference reader, the bytes after it not looked at. The
action is taken off the host's list and nothing else is added around `exec`. -/
def Obligations.StepRunsDecodedInstruction : Prop :=
  (∀ (s : State) (r : Request) (rest : List HostAction) (i : Instr),
    s.busy = false → s.host = .request r :: rest → decode .request [requestByte r.op] = .ok (i, []) →
    step s = exec i { s with req := r, host := rest }) ∧
  ∀ (s : State) (f : WireField) (bytes : Bytes) (rest : List HostAction) (i : Instr) (after : Bytes),
    s.busy = false → s.host = .wire f bytes :: rest → decode (.wire f) bytes = .ok (i, after) →
    step s = exec i { s with host := rest }

/-- Bytes that match no wire pattern: an integer cut short gives the reference reader no decoding (R102); flags with other
fixed bits are read all the same, and any other signature, or flags cut short, stop it (R171). The reader is the model's
own (notes/assumptions/5.md). -/
def Obligations.StepOnUndecodableBytes : Prop :=
  ∀ (s : State) (f : WireField) (bytes : Bytes) (rest : List HostAction) (e : DecodeError),
    s.busy = false → s.host = .wire f bytes :: rest → decode (.wire f) bytes = .error e →
    (f = .integer → step s = .next { s with host := rest, reader := { s.reader with integer := none } }) ∧
    (∀ (f0 f1 : Byte) (more : Bytes), f = .flags → bytes = f0 :: f1 :: more →
      step s = .next { s with
        host := rest,
        reader := { s.reader with
          version := f0.extractLsb' 4 4, idPresent := f0.getLsbD 3, tsPresent := f0.getLsbD 1,
          status := f1.setWidth 3 } }) ∧
    (f = .flags → bytes.length < 2 → step s = .refused (.undecodable e)) ∧
    (f = .signature → step s = .refused (.undecodable e))

/-- A word of spec/opcode_table.json placed where the step fetches runs as the instruction it decodes to, on an idle block
whose registers hold what they held, but for `OP`. -/
def Obligations.PlacedWordRuns : Prop :=
  ∀ (s : State) (nbits w : Nat) (i : Instr), decodeTableWord nbits w = some i →
    step (s.withFetchWord nbits w) =
      exec i { s with
        busy := false, work := Work.cleared,
        req := if i.slot = .request then { s.req with op := BitVec.ofNat 3 w } else s.req }

/-- The eight `OP` codes and what each selects (R60, R73). -/
def Obligations.OpCodeSelectsOperation : Prop :=
  ∀ (s : State) (r : Request) (rest : List HostAction), s.busy = false → s.host = .request r :: rest →
    (r.op = 0b000#3 → step s = exec .vli { s with req := r, host := rest }) ∧
    (r.op = 0b001#3 → step s = exec .flg { s with req := r, host := rest }) ∧
    (r.op = 0b010#3 → step s = exec .tse { s with req := r, host := rest }) ∧
    (r.op = 0b011#3 → step s = exec .ide { s with req := r, host := rest }) ∧
    (r.op = 0b100#3 → step s = exec .crc { s with req := r, host := rest }) ∧
    (r.op = 0b101#3 → step s = exec .enc { s with req := r, host := rest }) ∧
    (r.op = 0b110#3 → step s = .refused (.reservedOperation 6#3)) ∧
    (r.op = 0b111#3 → step s = .refused (.reservedOperation 7#3))

/-! ### The variable-length integer -/

/-- R92 to R95: the bytes of each size class, and the corner cases the rules give. -/
def Obligations.VliEncodesEachSizeClass : Prop :=
  (∀ s : State, s.busy = false →
    let n := s.req.n.toNat
    let answers := fun (bytes : Bytes) =>
      exec .vli s = .next { s with
        busy := false, work := Work.cleared, responses := s.responses ++ [{ kind := .ok, res := bytes, sinkErr := none }] }
    (n < 64 → answers [byteOf n]) ∧
    (64 ≤ n → n ≤ 16383 → n ||| 0x4000 = n + 16384 ∧ answers [byteOf (0x40 ||| (n >>> 8)), byteOf (n &&& 0xFF)]) ∧
    (16384 ≤ n → n ≤ 4194303 →
      n >>> 16 < 64 ∧
      answers [byteOf (0x80 ||| (n >>> 16)), byteOf ((n >>> 8) &&& 0xFF), byteOf (n &&& 0xFF)]) ∧
    (4194304 ≤ n → n ≤ 1073741823 →
      n ||| 0xC0000000 = n + 3221225472 ∧
      answers [byteOf (0xC0 ||| (n >>> 24)), byteOf ((n >>> 16) &&& 0xFF), byteOf ((n >>> 8) &&& 0xFF),
        byteOf (n &&& 0xFF)])) ∧
  vliBytes 0 = [0x00#8] ∧ vliBytes 63 = [0x3F#8] ∧
  vliBytes 64 = [0x40#8, 0x40#8] ∧ vliBytes 255 = [0x40#8, 0xFF#8] ∧ vliBytes 256 = [0x41#8, 0x00#8] ∧
  vliBytes 16383 = [0x7F#8, 0xFF#8] ∧
  vliBytes 16384 = [0x80#8, 0x40#8, 0x00#8] ∧ vliBytes 65535 = [0x80#8, 0xFF#8, 0xFF#8] ∧
  vliBytes 65536 = [0x81#8, 0x00#8, 0x00#8] ∧ vliBytes 4194303 = [0xBF#8, 0xFF#8, 0xFF#8] ∧
  vliBytes 4194304 = [0xC0#8, 0x40#8, 0x00#8, 0x00#8] ∧ vliBytes 999999999 = [0xFB#8, 0x9A#8, 0xC9#8, 0xFF#8] ∧
  vliBytes 1073741823 = [0xFF#8, 0xFF#8, 0xFF#8, 0xFF#8]

/-- R96 and R181: who ends with IntegerTooLarge, what it leaves, and who never does. -/
def Obligations.IntegerTooLargeExactlyOnOverflow : Prop :=
  ∀ s : State, s.busy = false →
    let failed := Host.Outcome.next (φ := Fault) (ρ := Refusal) { s with
      busy := false, work := Work.cleared,
      responses := s.responses ++ [{ kind := .integerTooLarge, res := [], sinkErr := none }] }
    (1073741824 ≤ s.req.n.toNat → exec .vli s = failed) ∧
    (1073741824 ≤ s.req.ibufLen.toNat → exec .ide s = failed) ∧
    (∀ name, 1073741824 ≤ s.req.ibufLen.toNat → s.req.InContract → s.req.HasStatus name → exec .enc s = failed) ∧
    (s.req.n.toNat < 1073741824 → ¬ EndsWith (exec .vli s) s .integerTooLarge) ∧
    (s.req.ibufLen.toNat < 1073741824 →
      ¬ EndsWith (exec .ide s) s .integerTooLarge ∧ ¬ EndsWith (exec .enc s) s .integerTooLarge) ∧
    ¬ EndsWith (exec .tse s) s .integerTooLarge ∧ ¬ EndsWith (exec .flg s) s .integerTooLarge ∧
    ¬ EndsWith (exec .crc s) s .integerTooLarge

/-- R97: the output is the shortest of the four forms that can hold the integer. -/
def Obligations.VliIsMinimal : Prop :=
  ∀ n k : Nat, n < 1073741824 → 1 ≤ k → k ≤ 4 → (n < 2 ^ (8 * k - 2) ↔ (vliBytes n).length ≤ k)

/-- R98: the size table, the range of the first byte in each row, monotonicity, and the size code. -/
def Obligations.VliSizeTable : Prop :=
  (∀ n : Nat, n ≤ 1073741823 →
    (vliBytes n).length = vliSize n ∧
    ∃ first rest, vliBytes n = first :: rest ∧ (first.toNat >>> 6) + 1 = vliSize n ∧
      (n ≤ 63 → vliSize n = 1 ∧ first.toNat ≤ 0x3F) ∧
      (64 ≤ n → n ≤ 16383 → vliSize n = 2 ∧ 0x40 ≤ first.toNat ∧ first.toNat ≤ 0x7F) ∧
      (16384 ≤ n → n ≤ 4194303 → vliSize n = 3 ∧ 0x80 ≤ first.toNat ∧ first.toNat ≤ 0xBF) ∧
      (4194304 ≤ n → vliSize n = 4 ∧ 0xC0 ≤ first.toNat)) ∧
  ∀ m n : Nat, m ≤ n → n ≤ 1073741823 → vliSize m ≤ vliSize n

/-- R100: the reference decoder undoes the encoder, whatever follows; the encoder fails from `2^30` on. -/
def Obligations.VliRoundTrip : Prop :=
  (∀ (n : Nat) (r : Bytes), n ≤ 1073741823 →
    vliChecked n = .ok (vliBytes n) ∧ vliDec (vliBytes n ++ r) = some (n, vliSize n)) ∧
  vliChecked 1073741824 = .error (.raised .integerTooLarge)

/-- R102, and R101, which the spec derives from R99: the decoder accepts a non-minimal form, which then is not what the
encoder emits, and has no result exactly on the empty and on the truncated input. -/
def Obligations.VliDecoderOnAnyInput : Prop :=
  vliDec [0x40#8, 0x05#8] = some (5, 2) ∧ vliBytes 5 = [0x05#8] ∧
  (∀ (s : Bytes) (v k : Nat), vliDec s = some (v, k) → (vliBytes v = s.take k ↔ vliSize v = k)) ∧
  vliDec [] = none ∧
  ∀ (b : Byte) (rest : Bytes), vliDec (b :: rest) = none ↔ (b :: rest).length < (b.toNat >>> 6) + 1

/-- R63: the size code above the value bits, as one big-endian number and byte by byte as the wire pattern. -/
def Obligations.VliAssemblesValueBits : Prop :=
  ∀ n : Nat, n < 1073741824 →
    vliBytes n = beBytes (vliSize n) (n ||| ((vliSize n - 1) <<< (8 * vliSize n - 2))) ∧
    (n < 64 → vliBytes n = encode (.wireVli1 n)) ∧
    (64 ≤ n → n < 16384 → vliBytes n = encode (.wireVli2 n)) ∧
    (16384 ≤ n → n < 4194304 → vliBytes n = encode (.wireVli3 n)) ∧
    (4194304 ≤ n → vliBytes n = encode (.wireVli4 n))

/-! ### The flags -/

/-- R110 to R112: the two flags bytes and everything FLG leaves alone. -/
def Obligations.FlgBuildsFlags : Prop :=
  ∀ (s : State) (name : Bytes), s.busy = false → s.req.HasStatus name →
    let f0 : Byte :=
      if s.req.ibufLen = 0 then (if s.req.tsValid then 0x22#8 else 0x20#8)
      else (if s.req.tsValid then 0x2A#8 else 0x28#8)
    exec .flg s = .next { s with
      busy := false, work := Work.cleared,
      responses := s.responses ++ [{ kind := .ok, res := [f0, byteOf (statusCode name).toNat], sinkErr := none }] }

/-- R114 and R115: the table in full, from the letters of the names, and the default. -/
def Obligations.StatusCodeTable : Prop :=
  statusCode [] = 0#3 ∧ statusCode (asciiBytes ['u', 'n', 'd', 'e', 'f', 'i', 'n', 'e', 'd']) = 0#3 ∧ statusCode (asciiBytes ['e', 'x', 'i', 's', 't', 's']) = 1#3 ∧
  statusCode (asciiBytes ['i', 'n', 'p', 'r', 'o', 'g', 'r', 'e', 's', 's']) = 2#3 ∧ statusCode (asciiBytes ['s', 'u', 'c', 'c', 'e', 's', 's']) = 3#3 ∧
  statusCode (asciiBytes ['u', 'x', 's', 'u', 'c', 'c', 'e', 's', 's']) = 4#3 ∧ statusCode (asciiBytes ['s', 'k', 'i', 'p']) = 5#3 ∧
  statusCode (asciiBytes ['f', 'a', 'i', 'l']) = 6#3 ∧ statusCode (asciiBytes ['x', 'f', 'a', 'i', 'l']) = 7#3 ∧
  statusCode (asciiBytes ['S', 'u', 'c', 'c', 'e', 's', 's']) = 0#3 ∧ statusCode (asciiBytes ['s', 'u', 'c', 'c', 'e', 's', 's', ' ']) = 0#3 ∧
  statusCode (asciiBytes ['s', 'u', 'c', 'c']) = 0#3 ∧
  ∀ name : Bytes,
    name ≠ asciiBytes ['u', 'n', 'd', 'e', 'f', 'i', 'n', 'e', 'd'] → name ≠ asciiBytes ['e', 'x', 'i', 's', 't', 's'] → name ≠ asciiBytes ['i', 'n', 'p', 'r', 'o', 'g', 'r', 'e', 's', 's'] →
    name ≠ asciiBytes ['s', 'u', 'c', 'c', 'e', 's', 's'] → name ≠ asciiBytes ['u', 'x', 's', 'u', 'c', 'c', 'e', 's', 's'] → name ≠ asciiBytes ['s', 'k', 'i', 'p'] →
    name ≠ asciiBytes ['f', 'a', 'i', 'l'] → name ≠ asciiBytes ['x', 'f', 'a', 'i', 'l'] → statusCode name = 0#3

/-- R113: a presence bit is 1 exactly when its register says so, in FLG and in a packet, and in a packet exactly when its
field follows. -/
def Obligations.PresenceBitsFollowFields : Prop :=
  (∀ (r : Request) (w : Work), buildPacket r = .ok w →
    ∃ f0 f1, w.flags = [f0, f1] ∧
      (f0.getLsbD 3 = true ↔ r.ibufLen ≠ 0) ∧ (f0.getLsbD 1 = true ↔ r.tsValid = true) ∧
      (w.idb ≠ [] ↔ r.ibufLen ≠ 0) ∧ (w.tsb ≠ [] ↔ r.tsValid = true)) ∧
  ∀ (s : State) (res : Bytes), Returns (exec .flg s) s res →
    ∃ f0 f1, res = [f0, f1] ∧ (f0.getLsbD 3 = true ↔ s.req.ibufLen ≠ 0) ∧
      (f0.getLsbD 1 = true ↔ s.req.tsValid = true)

/-- R117: the two bytes as one 16-bit big-endian value. -/
def Obligations.FlagsAsOneValue : Prop :=
  ∀ (i t : Bool) (name : Bytes), beBytes 2 (flags16 i t name) = flags i t name

/-- R118: exactly the 32 values of the pattern, every one reachable, and no dependence on the content of the identifier,
on the value of the timestamp or on anything outside the request. -/
def Obligations.FlagsFieldValues : Prop :=
  (∀ (i t : Bool) (c : BitVec 3), ∃ s : State, s.busy = false ∧
    Returns (exec .flg s) s [flagsPattern0 i t, flagsPattern1 c]) ∧
  (∀ (s : State) (res : Bytes), Returns (exec .flg s) s res →
    ∃ (i t : Bool) (c : BitVec 3), res = [flagsPattern0 i t, flagsPattern1 c]) ∧
  (∀ (i t i' t' : Bool) (c c' : BitVec 3),
    [flagsPattern0 i t, flagsPattern1 c] = [flagsPattern0 i' t', flagsPattern1 c'] → i = i' ∧ t = t' ∧ c = c') ∧
  ∀ (s u : State) (name res : Bytes), s.busy = false → u.busy = false →
    (s.req.ibufLen = 0 ↔ u.req.ibufLen = 0) → s.req.tsValid = u.req.tsValid →
    s.req.HasStatus name → u.req.HasStatus name → Returns (exec .flg s) s res → Returns (exec .flg u) u res

/-! ### The timestamp and the identifier -/

/-- R125 to R127: nothing where the timestamp is unset, whatever the other two registers hold; else the four bytes of the
seconds and the encoded nanoseconds. -/
def Obligations.TseBuildsTimestamp : Prop :=
  ∀ s : State, s.busy = false →
    let answers := fun (bytes : Bytes) =>
      exec .tse s = .next { s with
        busy := false, work := Work.cleared, responses := s.responses ++ [{ kind := .ok, res := bytes, sinkErr := none }] }
    let sec := s.req.tsSec
    (s.req.tsValid = false → answers []) ∧
    (s.req.tsValid = true → s.req.tsNsec.toNat < 1000000000 →
      answers ([sec.extractLsb' 24 8, sec.extractLsb' 16 8, sec.extractLsb' 8 8, sec.extractLsb' 0 8] ++
        vliBytes s.req.tsNsec.toNat))

/-- R129: the length of the timestamp bytes. -/
def Obligations.TimestampLengths : Prop :=
  ∀ (s : State) (res : Bytes), Returns (exec .tse s) s res →
    let ns := s.req.tsNsec.toNat
    (s.req.tsValid = false → res.length = 0) ∧
    (s.req.tsValid = true →
      res.length = 4 + vliSize ns ∧ (ns ≤ 63 → res.length = 5) ∧ (64 ≤ ns → ns ≤ 16383 → res.length = 6) ∧
      (16384 ≤ ns → ns ≤ 4194303 → res.length = 7) ∧ (4194304 ≤ ns → res.length = 8 ∧ ns ≤ 999999999) ∧
      (ns = 0 → res.length = 5 ∧ res[4]? = some 0x00#8))

/-- R137: the timestamp reads back exactly. -/
def Obligations.TimestampRoundTrip : Prop :=
  ∀ (s : State) (res : Bytes), s.req.tsValid = true → Returns (exec .tse s) s res →
    beNat (res.take 4) = s.req.tsSec.toNat ∧ vliDec (res.drop 4) = some (s.req.tsNsec.toNat, res.length - 4)

/-- R130 to R132 and R134: nothing for an absent identifier; IntegerTooLarge from `2^30` on, before any byte is read;
else the encoded length and the bytes unchanged. -/
def Obligations.IdeBuildsIdentifier : Prop :=
  ∀ s : State, s.busy = false →
    let n := s.req.ibufLen.toNat
    let answers := fun (r : Response) =>
      exec .ide s = .next { s with busy := false, work := Work.cleared, responses := s.responses ++ [r] }
    (n = 0 → answers { kind := .ok, res := [], sinkErr := none }) ∧
    (∀ bs, 0 < n → n < 1073741824 → s.req.HasBuffer bs →
      answers { kind := .ok, res := vliBytes n ++ bs, sinkErr := none }) ∧
    (1073741824 ≤ n → answers { kind := .integerTooLarge, res := [], sinkErr := none })

/-- R135: the length of the identifier bytes, the lengths that cannot occur, and the greatest identifier of a packet. -/
def Obligations.IdentifierLengths : Prop :=
  (∀ (s : State) (res : Bytes), Returns (exec .ide s) s res →
    let n := s.req.ibufLen.toNat
    (n = 0 → res.length = 0) ∧ (1 ≤ n → n ≤ 63 → res.length = n + 1) ∧
    (64 ≤ n → n ≤ 16383 → res.length = n + 2) ∧ (16384 ≤ n → n ≤ 4194303 → res.length = n + 3) ∧
    (4194304 ≤ n → n ≤ 1073741823 ∧ res.length = n + 4) ∧
    res.length ≠ 1 ∧ res.length ≠ 65 ∧ res.length ≠ 16386) ∧
  ∀ (r : Request) (w : Work), buildPacket r = .ok w → r.ibufLen.toNat ≤ 4194290

/-- R136: the length prefix decodes to `IBUF_LEN` and the bytes after it are `IBUF`. -/
def Obligations.IdentifierRoundTrip : Prop :=
  ∀ (s : State) (res : Bytes), s.req.ibufLen ≠ 0 → Returns (exec .ide s) s res →
    vliDec res = some (s.req.ibufLen.toNat, vliSize s.req.ibufLen.toNat) ∧
    s.req.HasBuffer (res.drop (vliSize s.req.ibufLen.toNat))

/-! ### The CRC -/

/-- R140 and R144: the four bytes of the CRC of the message, most significant first, for a message of any length. -/
def Obligations.CrcDeliversChecksum : Prop :=
  ∀ (s : State) (m : Bytes), s.busy = false → s.req.HasBuffer m →
    let c := crc32 m
    exec .crc s = .next { s with
      busy := false, work := Work.cleared,
      responses := s.responses ++
        [{ kind := .ok, res := [c.extractLsb' 24 8, c.extractLsb' 16 8, c.extractLsb' 8 8, c.extractLsb' 0 8],
           sinkErr := none }] }

/-- R143: the table form gives the same value for every message, and the table has the entries the rule lists. -/
def Obligations.CrcTableFormAgrees : Prop :=
  (∀ m : Bytes, crc32ByTable m = crc32 m) ∧
  (∀ (acc : BitVec 32) (b : Byte), crcTableByte acc b = crcByte acc b) ∧
  crcTable 0x00#8 = 0x00000000#32 ∧ crcTable 0x01#8 = 0x77073096#32 ∧ crcTable 0x02#8 = 0xEE0E612C#32 ∧
  crcTable 0x03#8 = 0x990951BA#32 ∧ crcTable 0x04#8 = 0x076DC419#32 ∧ crcTable 0x08#8 = 0x0EDB8832#32 ∧
  crcTable 0x10#8 = 0x1DB71064#32 ∧ crcTable 0x20#8 = 0x3B6E20C8#32 ∧ crcTable 0x40#8 = 0x76DC4190#32 ∧
  crcTable 0x80#8 = 0xEDB88320#32 ∧ crcTable 0xFF#8 = 0x2D02EF8D#32

/-- R145, and R146, which the spec derives from R142: the document's known answer and the corner cases. -/
def Obligations.CrcKnownAnswers : Prop :=
  crc32 [0xB3#8, 0x20#8, 0x00#8, 0x08#8] = 0x1815F0BA#32 ∧
  checksum [0xB3#8, 0x20#8, 0x00#8, 0x08#8] = [0x18#8, 0x15#8, 0xF0#8, 0xBA#8] ∧
  crc32 [] = 0x00000000#32 ∧ crc32 [0x00#8] = 0xD202EF8D#32 ∧ crc32 [0xFF#8] = 0xFF000000#32 ∧
  crc32 [0x61#8] = 0xE8B7BE43#32 ∧ crc32 [0xB3#8] = 0x806A0DBB#32 ∧
  crc32 [0x00#8, 0x00#8, 0x00#8, 0x00#8] = 0x2144DF1C#32

/-! ### The packet -/

/-- R155, R160 to R163: on an idle block, a well-formed request whose packet fits makes exactly one write, of the
concatenation the rules give, and ends as the sink answers; nothing else changes. -/
def Obligations.EncSendsOnePacket : Prop :=
  ∀ (s : State) (name ident : Bytes) (rest : List SinkAnswer),
    s.busy = false → s.req.InContract → s.req.HasStatus name → s.req.HasBuffer ident →
    let fl := flags (decide (s.req.ibufLen ≠ 0)) s.req.tsValid name
    let tsb := if s.req.tsValid then beBytes 4 s.req.tsSec.toNat ++ vliBytes s.req.tsNsec.toNat else []
    let idb := if ident = [] then [] else vliBytes ident.length ++ ident
    let baseLen := 1 + fl.length + tsb.length + idb.length + 4
    let len := if baseLen ≤ 62 then baseLen + 1 else if baseLen ≤ 16381 then baseLen + 2 else baseLen + 3
    let body := [0xB3#8] ++ fl ++ vliBytes len ++ tsb ++ idb
    let pkt := body ++ beBytes 4 (crc32 body).toNat
    baseLen ≤ 4194300 →
    (s.sinkAnswers = .ok :: rest →
      exec .enc s = .next { s with
        busy := false, work := Work.cleared, sinkAnswers := rest,
        sinkWrites := s.sinkWrites ++ [pkt], sinkLog := s.sinkLog ++ [pkt],
        responses := s.responses ++ [{ kind := .ok, res := [], sinkErr := none }] }) ∧
    (∀ e, s.sinkAnswers = .fail e :: rest →
      exec .enc s = .next { s with
        busy := false, work := Work.cleared, sinkAnswers := rest, sinkWrites := s.sinkWrites ++ [pkt],
        responses := s.responses ++ [{ kind := .sinkWriteFailure, res := [], sinkErr := some e }] })

/-- R218: with no answer from the sink the operation stays pending, `BUSY = 1`, and does not complete; each later step
waits on; the first answer completes it. -/
def Obligations.EncWaitsForTheSink : Prop :=
  (∀ (s : State) (w : Work), s.busy = false → buildPacket s.req = .ok w → s.sinkAnswers = [] →
    exec .enc s = .next { s with busy := true, work := w, sinkWrites := s.sinkWrites ++ [w.pkt] }) ∧
  (∀ s : State, s.busy = true → s.sinkAnswers = [] → step s = .next s) ∧
  (∀ (s : State) (rest : List SinkAnswer), s.busy = true → s.sinkAnswers = .ok :: rest →
    step s = .next { s with
      busy := false, work := Work.cleared, sinkAnswers := rest, sinkLog := s.sinkLog ++ [s.work.pkt],
      responses := s.responses ++ [{ kind := .ok, res := [], sinkErr := none }] }) ∧
  ∀ (s : State) (e : Config.SinkError) (rest : List SinkAnswer), s.busy = true → s.sinkAnswers = .fail e :: rest →
    step s = .next { s with
      busy := false, work := Work.cleared, sinkAnswers := rest,
      responses := s.responses ++ [{ kind := .sinkWriteFailure, res := [], sinkErr := some e }] }

/-- R217 and R219: an operation whose meaning is reached ends at once with exactly one response and `BUSY = 0`, but for an
ENC that the sink has not answered; that one ends in the step after the answer, whatever it is. -/
def Obligations.EveryOperationEnds : Prop :=
  ∀ (i : Instr) (s t : State), i.slot = .request → exec i s = .next t →
    (t.busy = false ∧ ∃ r, t.responses = s.responses ++ [r]) ∨
    (i = .enc ∧ s.sinkAnswers = [] ∧ t.busy = true ∧ t.responses = s.responses ∧
      ∀ (a : SinkAnswer) (rest : List SinkAnswer), ∃ u r,
        step { t with sinkAnswers := a :: rest } = .next u ∧ u.busy = false ∧ u.responses = s.responses ++ [r])

/-- R172 and R173: the outcome of ENC by the length of the identifier, `t` being the length of the timestamp bytes. -/
def Obligations.EncOutcomeByIdentifierLength : Prop :=
  ∀ (s : State) (name : Bytes), s.busy = false → s.req.InContract → s.req.HasStatus name →
    let n := s.req.ibufLen.toNat
    let t := s.req.timestampLength
    let failed := fun (k : ResponseKind) => exec .enc s = .next { s with
      busy := false, work := Work.cleared, responses := s.responses ++ [{ kind := k, res := [], sinkErr := none }] }
    (∀ bs, s.req.HasBuffer bs → n ≤ 4194290 - t →
      ∃ w u, buildPacket s.req = .ok w ∧ exec .enc s = .next u ∧ u.sinkWrites = s.sinkWrites ++ [w.pkt]) ∧
    (∀ bs, s.req.HasBuffer bs → 4194291 - t ≤ n → n ≤ 1073741823 → failed .packetTooLarge) ∧
    (1073741824 ≤ n → failed .integerTooLarge)

/-- R158 and R165: the row of the threshold table, and the length field has exactly the size the row adds. -/
def Obligations.ThresholdsAreExact : Prop :=
  ∀ b : Nat, 7 ≤ b →
    (b ≤ 62 → finalLength b = some (b + 1) ∧ 8 ≤ b + 1 ∧ b + 1 ≤ 63 ∧ (vliBytes (b + 1)).length = 1) ∧
    (63 ≤ b → b ≤ 16381 →
      finalLength b = some (b + 2) ∧ 65 ≤ b + 2 ∧ b + 2 ≤ 16383 ∧ (vliBytes (b + 2)).length = 2) ∧
    (16382 ≤ b → b ≤ 4194300 →
      finalLength b = some (b + 3) ∧ 16385 ≤ b + 3 ∧ b + 3 ≤ 4194303 ∧ (vliBytes (b + 3)).length = 3) ∧
    (4194301 ≤ b → finalLength b = none)

/-- R166: 9, 64 and 16384 are no packet's length, and every other length from 8 to 4194303 is some packet's. -/
def Obligations.LengthsThatNeverOccur : Prop :=
  (∀ (r : Request) (w : Work), buildPacket r = .ok w →
    8 ≤ w.len ∧ w.len ≤ 4194303 ∧ w.len ≠ 9 ∧ w.len ≠ 64 ∧ w.len ≠ 16384 ∧
    w.lenb ≠ [0x40#8, 0x40#8] ∧ w.lenb ≠ [0x80#8, 0x40#8, 0x00#8]) ∧
  ∀ len : Nat, 8 ≤ len → len ≤ 4194303 → len ≠ 9 → len ≠ 64 → len ≠ 16384 →
    ∃ (r : Request) (w : Work), buildPacket r = .ok w ∧ w.len = len

/-- R164: the two invariants of a packet, and where its length comes from. -/
def Obligations.PacketInvariants : Prop :=
  ∀ (r : Request) (w : Work), buildPacket r = .ok w →
    vliDec (w.pkt.drop 3) = some (w.len, w.lenb.length) ∧ w.pkt.length = w.len ∧
    w.pkt.drop (w.len - 4) = beBytes 4 (crc32 (w.pkt.take (w.len - 4))).toNat ∧
    w.pkt.length = 3 + w.lenb.length + w.tsb.length + w.idb.length + 4 ∧
    w.pkt.length = w.baseLen + w.lenb.length

/-- R171: the reference parse succeeds on every packet the block builds and gives back the Event. -/
def Obligations.PacketParsesBack : Prop :=
  ∀ (r : Request) (name ident : Bytes) (w : Work), r.HasStatus name → r.HasBuffer ident → buildPacket r = .ok w →
    parse w.pkt = some
      { version := 2#4, status := statusCode name,
        timestamp := if r.tsValid then some (r.tsSec.toNat, r.tsNsec.toNat) else none, identifier := ident }

/-- R167: the minimal packet, field by field, and no packet is shorter. -/
def Obligations.MinimalPacket : Prop :=
  (∀ (r : Request) (name : Bytes), r.ibufLen = 0 → r.tsValid = false → r.HasStatus name → statusCode name = 0#3 →
    ∃ w, buildPacket r = .ok w ∧ w.flags = [0x20#8, 0x00#8] ∧ w.tsb = [] ∧ w.idb = [] ∧ w.baseLen = 7 ∧ w.len = 8 ∧
      w.lenb = [0x08#8] ∧
      w.pkt = [0xB3#8, 0x20#8, 0x00#8, 0x08#8, 0x18#8, 0x15#8, 0xF0#8, 0xBA#8]) ∧
  ∀ (r : Request) (w : Work), buildPacket r = .ok w → 8 ≤ w.pkt.length

/-- R168: the greatest identifier that fits, `t` being the length of the timestamp bytes, and the greatest with a length
field of one and of two bytes. -/
def Obligations.GreatestIdentifier : Prop :=
  (∀ (r : Request) (w : Work), buildPacket r = .ok w →
    let n := r.ibufLen.toNat
    let t := w.tsb.length
    n ≤ 4194290 - t ∧ (16384 ≤ n → w.baseLen = 7 + t + 3 + n) ∧ (n = 4194290 - t → w.len = 4194303) ∧
    (w.lenb.length = 1 ↔ n ≤ 54 - t) ∧ (w.lenb.length ≤ 2 ↔ n ≤ 16372 - t)) ∧
  ∀ (r : Request) (name ident : Bytes), r.InContract → r.HasStatus name → r.HasBuffer ident →
    r.ibufLen.toNat < 1073741824 →
    ((∃ w, buildPacket r = .ok w) ↔ r.ibufLen.toNat ≤ 4194290 - r.timestampLength) ∧
    (4194291 - r.timestampLength ≤ r.ibufLen.toNat → buildPacket r = .error (.raised .packetTooLarge))

/-- R169: the packet is a function of the Event alone, and status names of the same code give the same packet. -/
def Obligations.SameEventSamePacket : Prop :=
  ∀ r q : Request, SameEvent r q →
    (∀ w, buildPacket r = .ok w → ∃ w', buildPacket q = .ok w' ∧ w'.pkt = w.pkt) ∧
    ∀ e, buildPacket r = .error e → buildPacket q = .error e

/-- R170: the packet is the signature and the results of the unit operations on the same registers, the length and the
checksummed bytes being handed to VLI and CRC, which are stated only for that length and those bytes. -/
def Obligations.PacketFromUnitOperations : Prop :=
  ∀ (s : State) (w : Work), s.busy = false → buildPacket s.req = .ok w →
    ∃ f v t i c,
      let body := [0xB3#8] ++ f ++ v ++ t ++ i
      let forVli := { s with req := { s.req with n := BitVec.ofNat Config.nw w.len } }
      let forCrc := { s with
        req := { s.req with ibuf := bufferOf body, ibufLen := BitVec.ofNat Config.lw body.length } }
      Returns (exec .flg s) s f ∧ Returns (exec .vli forVli) forVli v ∧ Returns (exec .tse s) s t ∧
      Returns (exec .ide s) s i ∧ Returns (exec .crc forCrc) forCrc c ∧ w.pkt = body ++ c

/-- R160 and R162: filling the packet buffer by the writes the rules give, at the offsets of R46, leaves exactly the
packet in it. -/
def Obligations.PacketBufferHoldsPacket : Prop :=
  ∀ (r : Request) (w : Work), buildPacket r = .ok w →
    let buffer := fillPacketBuffer w.flags w.lenb w.tsb w.idb (beBytes 4 (w.crcAcc ^^^ 0xFFFFFFFF#32).toNat)
    Memory.wf buffer ∧ memRead buffer 0 w.len = some w.pkt ∧ memRead buffer 3 w.lenb.length = some w.lenb ∧
    ∀ a, w.len ≤ a → memByte buffer a = none

/-- R176: the packets of successive operations, one after the other, are cut apart again by their length fields. -/
def Obligations.StreamCutsIntoPackets : Prop :=
  ∀ (rs : List Request) (ws : List Work), List.Forall₂ (fun r w => buildPacket r = .ok w) rs ws →
    cutPackets ws.length (ws.map Work.pkt).flatten = some (ws.map Work.pkt)

/-! ### Errors, refusals, isolation -/

/-- R74: the numbers of the response kinds. -/
def Obligations.ResponseKindNumbers : Prop :=
  kindCode .ok = 0b00#2 ∧ kindCode .integerTooLarge = 0b01#2 ∧ kindCode .packetTooLarge = 0b10#2 ∧
  kindCode .sinkWriteFailure = 0b11#2 ∧ ∀ j k : ResponseKind, kindCode j = kindCode k → j = k

/-- R185: the complete matrix of operations and response kinds. -/
def Obligations.OutcomeMatrix : Prop :=
  ∀ s : State, s.busy = false →
    let n := s.req.ibufLen.toNat
    (s.req.n.toNat ≤ 1073741823 → EndsWith (exec .vli s) s .ok) ∧
    (1073741824 ≤ s.req.n.toNat → EndsWith (exec .vli s) s .integerTooLarge) ∧
    (∀ name, s.req.HasStatus name → EndsWith (exec .flg s) s .ok) ∧
    (s.req.InContract → EndsWith (exec .tse s) s .ok) ∧
    (∀ bs, n ≤ 1073741823 → s.req.HasBuffer bs → EndsWith (exec .ide s) s .ok) ∧
    (1073741824 ≤ n → EndsWith (exec .ide s) s .integerTooLarge) ∧
    (∀ bs, s.req.HasBuffer bs → EndsWith (exec .crc s) s .ok) ∧
    (∀ w rest, buildPacket s.req = .ok w → s.sinkAnswers = .ok :: rest → EndsWith (exec .enc s) s .ok) ∧
    (∀ w e rest, buildPacket s.req = .ok w → s.sinkAnswers = .fail e :: rest →
      EndsWith (exec .enc s) s .sinkWriteFailure) ∧
    (∀ name, s.req.InContract → s.req.HasStatus name → 1073741824 ≤ n →
      EndsWith (exec .enc s) s .integerTooLarge) ∧
    ∀ name bs, s.req.InContract → s.req.HasStatus name → s.req.HasBuffer bs → n ≤ 1073741823 →
      4194301 ≤ 7 + s.req.timestampLength + (if n = 0 then 0 else vliSize n + n) →
      EndsWith (exec .enc s) s .packetTooLarge

/-- R186: what an error leaves behind, whichever operation raised it. -/
def Obligations.ErrorLeavesNothing : Prop :=
  ∀ (i : Instr) (s t : State) (r : Response), i.slot = .request → exec i s = .next t →
    t.responses = s.responses ++ [r] → r.kind ≠ .ok →
    t.busy = false ∧ t.work = Work.cleared ∧ r.res = [] ∧ t.req = s.req ∧ t.sinkLog = s.sinkLog ∧
    (r.kind ≠ .sinkWriteFailure →
      r.sinkErr = none ∧ t.sinkWrites = s.sinkWrites ∧ t.sinkAnswers = s.sinkAnswers) ∧
    (r.kind = .sinkWriteFailure →
      ∃ w e rest, buildPacket s.req = .ok w ∧ s.sinkAnswers = .fail e :: rest ∧ r.sinkErr = some e ∧
        t.sinkWrites = s.sinkWrites ++ [w.pkt] ∧ t.sinkAnswers = rest)

/-- R20 and R187: what an operation answers and writes is a function of its request and of the sink's answer alone; no
earlier operation, successful or failed, shows in it. -/
def Obligations.NothingCarriesOver : Prop :=
  ∀ (i : Instr) (s u t : State), i.slot = .request → s.busy = false → u.busy = false → s.req = u.req →
    s.sinkAnswers = u.sinkAnswers → exec i s = .next t →
    ∃ v rs ws, exec i u = .next v ∧ t.responses = s.responses ++ rs ∧ v.responses = u.responses ++ rs ∧
      t.sinkWrites = s.sinkWrites ++ ws ∧ v.sinkWrites = u.sinkWrites ++ ws ∧ t.busy = v.busy ∧
      (t.busy = false → t.work = Work.cleared ∧ v.work = Work.cleared)

/-- R61: a register an operation does not read changes neither its outcome nor anything it leaves. -/
def Obligations.UnreadRegistersIgnored : Prop :=
  ∀ (i : Instr) (s : State) (q : Request), i.slot = .request → AgreeOnOperands i s.req q →
    (∀ t, exec i s = .next t → exec i { s with req := q } = .next { t with req := q }) ∧
    (∀ x, exec i s = .refused x → exec i { s with req := q } = .refused x)

/-- R73 (a): the reserved `OP` codes select no operation and the request is refused. That the refusal comes in every
state, busy or not, is the model's reading (DEDUCED, notes/assumptions/13.md): U8 calls a request while busy stuck. -/
def Obligations.ReservedOpsRefused : Prop :=
  ∀ s : State, exec .reservedOp6 s = .refused (.reservedOperation 0b110#3) ∧
    exec .reservedOp7 s = .refused (.reservedOperation 0b111#3)

/-- R184: the other ill-formed requests: the nanoseconds out of contract, a byte the host never wrote, and any operation
while `BUSY = 1`, which has no step at all. -/
def Obligations.IllFormedRequestsRefused : Prop :=
  (∀ s : State, s.busy = false → s.req.tsValid = true → 1000000000 ≤ s.req.tsNsec.toNat →
    exec .tse s = .refused .nanosecondsOutOfContract ∧ exec .enc s = .refused .nanosecondsOutOfContract) ∧
  (∀ s : State, s.busy = false → memRead s.req.status 0 s.req.statusLen.toNat = none →
    exec .flg s = .refused .unwrittenByte ∧ (s.req.InContract → exec .enc s = .refused .unwrittenByte)) ∧
  (∀ s : State, s.busy = false → memRead s.req.ibuf 0 s.req.ibufLen.toNat = none →
    exec .crc s = .refused .unwrittenByte ∧
    (s.req.ibufLen.toNat < 1073741824 → exec .ide s = .refused .unwrittenByte) ∧
    ∀ name, s.req.ibufLen.toNat < 1073741824 → s.req.InContract → s.req.HasStatus name →
      exec .enc s = .refused .unwrittenByte) ∧
  ∀ (i : Instr) (s : State), i ∈ [Instr.vli, .flg, .tse, .ide, .crc, .enc] → s.busy = true →
    exec i s = .fault .requestWhileBusy

/-- R44: an ENC whose packet is built writes exactly that packet, once; an ENC that raises an error before writes nothing;
no other operation touches the sink, and no step writes to it but that of an ENC the host asked for. -/
def Obligations.OnlyEncWritesTheSink : Prop :=
  (∀ (i : Instr) (s t : State), exec i s = .next t →
    (i ≠ .enc → t.sinkWrites = s.sinkWrites ∧ t.sinkLog = s.sinkLog ∧ t.sinkAnswers = s.sinkAnswers) ∧
    (i = .enc →
      (∃ w, buildPacket s.req = .ok w ∧ t.sinkWrites = s.sinkWrites ++ [w.pkt]) ∨
      ∃ k, buildPacket s.req = .error (.raised k) ∧ t.sinkWrites = s.sinkWrites ∧ t.sinkLog = s.sinkLog ∧
        t.sinkAnswers = s.sinkAnswers)) ∧
  ∀ s t : State, step s = .next t →
    t.sinkWrites = s.sinkWrites ∨
    ∃ r rest w, s.busy = false ∧ s.host = .request r :: rest ∧ decodeOp r.op = .enc ∧ buildPacket r = .ok w ∧
      t.sinkWrites = s.sinkWrites ++ [w.pkt]

/-- R21 and R6: no instruction writes a request register or takes a host action; the operations of the block leave the
reference reader alone, and the reader leaves the block alone. -/
def Obligations.BlockAndReaderAreApart : Prop :=
  ∀ (i : Instr) (s t : State), exec i s = .next t →
    t.req = s.req ∧ t.host = s.host ∧ (i.slot = .request → t.reader = s.reader) ∧
    (i.slot ≠ .request → t = { s with reader := t.reader })

/-! ### The reference reader -/

/-- The wire patterns of the integer: the reader gets the value and the size, non-minimal forms included. The reader and
its fields are the model's own (notes/assumptions/5.md); the value and the size are R62's and R99's. -/
def Obligations.WireIntegersRead : Prop :=
  ∀ (s : State) (v : Nat),
    (v < 64 → exec (.wireVli1 v) s = .next { s with reader := { s.reader with integer := some (v, 1) } }) ∧
    (v < 16384 → exec (.wireVli2 v) s = .next { s with reader := { s.reader with integer := some (v, 2) } }) ∧
    (v < 4194304 → exec (.wireVli3 v) s = .next { s with reader := { s.reader with integer := some (v, 3) } }) ∧
    (v < 1073741824 → exec (.wireVli4 v) s = .next { s with reader := { s.reader with integer := some (v, 4) } })

/-- The signature and the flags patterns: the reader gets what the reference parse extracts (R171). The reader and its
fields are the model's own (notes/assumptions/5.md). -/
def Obligations.WireSignatureAndFlagsRead : Prop :=
  ∀ (s : State) (i t : Bool) (c : BitVec 3),
    exec .wireSignature s = .next { s with reader := { s.reader with signature := true } } ∧
    exec (.wireFlags i t c) s = .next { s with
      reader := { s.reader with version := 2#4, idPresent := i, tsPresent := t, status := c } }

/-! ### Reset and the invariants of every step -/

/-- R210: after reset `BUSY = 0`, no response and no sink write has been made, and the constants have their values; a
reset of an idle block makes no response and no sink write. The register values are the model's choice
(notes/assumptions/1.md) and are not stated. -/
def Obligations.ResetState : Prop :=
  State.reset.busy = false ∧ State.reset.responses = [] ∧ State.reset.sinkWrites = [] ∧ State.reset.sinkLog = [] ∧
  Config.signature = 0xB3#8 ∧ Config.version = 2#4 ∧ statusTable.length = 8 ∧
  ∀ (s : State) (rest : List HostAction), s.busy = false → s.host = .reset :: rest →
    ∃ t, step s = .next t ∧ t.busy = false ∧ t.responses = s.responses ∧ t.sinkWrites = s.sinkWrites ∧
      t.sinkLog = s.sinkLog ∧ t.host = rest

/-- The state after reset meets every invariant below. That its working registers are cleared and its buffers empty is the
model's choice (DESIGN CHOICE, notes/assumptions/1.md): R210 leaves every such register unspecified. -/
def Obligations.ResetMeetsInvariants : Prop :=
  CanonicalMemory State.reset ∧ WorkFollowsBusy State.reset ∧ SentPacketsValid State.reset ∧
  LogFollowsWrites State.reset ∧ ResponsesShaped State.reset

/-- Every step keeps every buffer in canonical form. -/
def Obligations.CanonicalMemoryKept : Prop :=
  ∀ s t : State, CanonicalMemory s → step s = .next t → CanonicalMemory t

/-- Every step keeps: between operations the block holds nothing, and an operation in progress is an ENC whose packet has
been written and not answered (R20, R175, R218). That an idle block's working registers are cleared, after a reset too, is
the model's choice (DESIGN CHOICE, notes/assumptions/1.md): R29 and R210 give them no value there. -/
def Obligations.WorkFollowsBusyKept : Prop :=
  ∀ s t : State, WorkFollowsBusy s → step s = .next t → WorkFollowsBusy t

/-- Every step keeps: every packet ever written to the sink is one the reference parse accepts, of version 2, whatever
requests the host issues and whatever the sink answers (R164, R171, R174). -/
def Obligations.SentPacketsValidKept : Prop :=
  ∀ s t : State, SentPacketsValid s → step s = .next t → SentPacketsValid t

/-- Every step keeps: the accepted packets are packets the block wrote, in that order, each at most once (R44, R174). -/
def Obligations.LogFollowsWritesKept : Prop :=
  ∀ s t : State, LogFollowsWrites s → step s = .next t → LogFollowsWrites t

/-- Every step keeps: `RES` is empty whenever `RK` is not OK, and `SINK_ERR` has a value exactly for SinkWriteFailure
(R27). -/
def Obligations.ResponsesShapedKept : Prop :=
  ∀ s t : State, ResponsesShaped s → step s = .next t → ResponsesShaped t
end

