-- ==== Sys2Proof/Laws/Bytes.lean ====
section
/-! SUPPORT. The byte-order helpers, each said once. -/

namespace Sys2Proof.Machine

@[simp] theorem byteOf_toNat (v : Nat) : (byteOf v).toNat = v % 256 := by
  simp [byteOf, BitVec.toNat_ofNat]

theorem byteOf_toNat_of_lt {v : Nat} (h : v < 256) : (byteOf v).toNat = v := by
  rw [byteOf_toNat, Nat.mod_eq_of_lt h]

theorem byteOf_of_toNat (b : Byte) : byteOf b.toNat = b := BitVec.ofNat_toNat 8 b |>.trans (BitVec.setWidth_eq b)

/-- Equal bytes have equal low 8 bits. -/
theorem byteOf_eq_iff (v w : Nat) : byteOf v = byteOf w ↔ v % 256 = w % 256 := by
  rw [← BitVec.toNat_inj, byteOf_toNat, byteOf_toNat]

@[simp] theorem beBytes_length (k v : Nat) : (beBytes k v).length = k := by
  induction k generalizing v with
  | zero => rfl
  | succ k ih => simp [beBytes, ih]

theorem beBytes_two (v : Nat) : beBytes 2 v = [byteOf (v >>> 8), byteOf v] := rfl

theorem beBytes_four (v : Nat) :
    beBytes 4 v = [byteOf (v >>> 24), byteOf (v >>> 16), byteOf (v >>> 8), byteOf v] := rfl

@[simp] theorem beFold_nil (v : Nat) : beFold v [] = v := rfl

@[simp] theorem beFold_cons (v : Nat) (b : Byte) (s : Bytes) :
    beFold v (b :: s) = beFold (v * 256 + b.toNat) s := by
  have h : (v <<< 8) ||| b.toNat = v * 256 + b.toNat := by
    rw [← Nat.shiftLeft_add_eq_or_of_lt b.isLt, Nat.shiftLeft_eq]
  simp [beFold, h]

theorem beFold_append (v : Nat) (s t : Bytes) : beFold v (s ++ t) = beFold (beFold v s) t := by
  simp [beFold, List.foldl_append]

end Sys2Proof.Machine
end

