-- ==== Sys2Proof/Laws/Memory.lean ====
section
/-! SUPPORT. Memory: a read after a write, everything else left alone, and the canonical form kept by every operation. -/

namespace Sys2Proof.Machine

@[simp] theorem memByte_nil (a : Nat) : memByte [] a = none := rfl

/-- One placed byte: the index reads it, every other index reads as before. -/
theorem memByte_memPut (m : Memory) (a x : Nat) (b : Byte) :
    memByte (memPut m a b) x = if x = a then some b else memByte m x := by
  induction m with
  | nil => rfl
  | cons c rest ih =>
    obtain ⟨a', b'⟩ := c
    simp only [memPut]
    split
    · rfl
    · split
      · subst a'
        simp only [memByte]
        split <;> rfl
      · simp only [memByte, ih]
        by_cases h : x = a' <;> by_cases h' : x = a <;> simp_all

/-- A written byte string: its bytes at their offsets, every other index as before. -/
theorem memByte_memWrite (m : Memory) (o x : Nat) (bs : Bytes) :
    memByte (memWrite m o bs) x =
      if o ≤ x ∧ x < o + bs.length then bs[x - o]? else memByte m x := by
  induction bs generalizing m o with
  | nil => simp [memWrite]
  | cons b bs ih =>
    rw [memWrite, ih, memByte_memPut, List.length_cons]
    by_cases hx : x = o
    · subst hx
      simp
    · by_cases h : o + 1 ≤ x ∧ x < o + 1 + bs.length
      · rw [if_pos h, if_pos (by omega)]
        obtain ⟨j, rfl⟩ : ∃ j, x = o + 1 + j := ⟨x - (o + 1), by omega⟩
        rw [show o + 1 + j - (o + 1) = j by omega, show o + 1 + j - o = j + 1 by omega, List.getElem?_cons_succ]
      · rw [if_neg h, if_neg hx, if_neg (by omega)]

/-- `MemRead` gives exactly the bytes at its indices. -/
theorem memRead_eq_some_iff (m : Memory) (i n : Nat) (bs : Bytes) :
    memRead m i n = some bs ↔ bs.length = n ∧ ∀ j < n, memByte m (i + j) = bs[j]? := by
  induction n generalizing i bs with
  | zero => cases bs <;> simp [memRead]
  | succ n ih =>
    cases bs with
    | nil =>
      simp only [memRead]
      split <;> simp
    | cons b bs =>
      simp only [memRead]
      constructor
      · intro h
        split at h
        · rename_i b' bs' hb hbs
          obtain ⟨rfl, rfl⟩ : b' = b ∧ bs' = bs := by simpa using h
          obtain ⟨hlen, hall⟩ := (ih (i + 1) bs').mp hbs
          refine ⟨by simp [hlen], fun j hj => ?_⟩
          cases j with
          | zero => simpa using hb
          | succ j =>
            rw [List.getElem?_cons_succ, ← hall j (by omega)]
            congr 1
            omega
        · cases h
      · rintro ⟨hlen, hall⟩
        have hb : memByte m i = some b := by simpa using hall 0 (by omega)
        have hbs : memRead m (i + 1) n = some bs := by
          refine (ih (i + 1) bs).mpr ⟨by simpa using hlen, fun j hj => ?_⟩
          have := hall (j + 1) (by omega)
          rw [List.getElem?_cons_succ] at this
          rw [← this]
          congr 1
          omega
        simp [hb, hbs]

theorem memRead_length {m : Memory} {i n : Nat} {bs : Bytes} (h : memRead m i n = some bs) : bs.length = n :=
  ((memRead_eq_some_iff m i n bs).mp h).1

@[simp] theorem memRead_zero (m : Memory) (i : Nat) : memRead m i 0 = some [] := by
  simp [memRead]

/-- Reading back exactly what was written. -/
theorem memRead_memWrite (m : Memory) (o : Nat) (bs : Bytes) : memRead (memWrite m o bs) o bs.length = some bs := by
  refine (memRead_eq_some_iff _ _ _ _).mpr ⟨rfl, fun j hj => ?_⟩
  rw [memByte_memWrite, if_pos (by omega), Nat.add_sub_cancel_left]

/-- A buffer the host filled reads as its bytes. -/
theorem memRead_bufferOf (bs : Bytes) : memRead (bufferOf bs) 0 bs.length = some bs := memRead_memWrite [] 0 bs

/-- Every cell of a memory after placing a byte is that byte's or was there before. -/
theorem mem_memPut {m : Memory} {a : Nat} {b : Byte} {c : Host.Cell} (h : c ∈ memPut m a b) : c = (a, b) ∨ c ∈ m := by
  induction m with
  | nil => simpa [memPut] using h
  | cons d rest ih =>
    obtain ⟨a', b'⟩ := d
    simp only [memPut] at h
    split at h
    · simpa using h
    · split at h
      · rcases List.mem_cons.mp h with h | h <;> simp [h]
      · rcases List.mem_cons.mp h with h | h
        · simp [h]
        · rcases ih h with h | h <;> simp [h]

/-- Placing a byte keeps the canonical form. -/
theorem memPut_wf {m : Memory} (h : Memory.wf m) (a : Nat) (b : Byte) : Memory.wf (memPut m a b) := by
  induction m with
  | nil => simp [memPut, Memory.wf]
  | cons d rest ih =>
    obtain ⟨a', b'⟩ := d
    obtain ⟨hd, hr⟩ := List.pairwise_cons.mp h
    simp only [memPut]
    split
    · rename_i hlt
      refine List.pairwise_cons.mpr ⟨fun c hc => ?_, h⟩
      rcases List.mem_cons.mp hc with rfl | hc
      · exact hlt
      · exact lt_trans hlt (hd c hc)
    · split
      · rename_i heq
        subst heq
        exact List.pairwise_cons.mpr ⟨hd, hr⟩
      · refine List.pairwise_cons.mpr ⟨fun c hc => ?_, ih hr⟩
        rcases mem_memPut hc with rfl | hc
        · show a' < a
          omega
        · exact hd c hc

/-- Writing a byte string keeps the canonical form. -/
theorem memWrite_wf {m : Memory} (h : Memory.wf m) (o : Nat) (bs : Bytes) : Memory.wf (memWrite m o bs) := by
  induction bs generalizing m o with
  | nil => exact h
  | cons b bs ih => exact ih (memPut_wf h o b) (o + 1)

/-- A buffer the host filled is in canonical form. -/
theorem bufferOf_wf (bs : Bytes) : Memory.wf (bufferOf bs) := memWrite_wf List.Pairwise.nil 0 bs

/-- The buffers after reset are in canonical form. -/
theorem reset_memory_wf : Memory.wf State.reset.req.ibuf ∧ Memory.wf State.reset.req.status := by decide

end Sys2Proof.Machine
end

