-- ==== Sys2Proof/Laws/Encoders.lean ====
section
/-! SUPPORT. The pure functions of the encoders, one lemma per case, and the inversion of the request-level ones. -/

namespace Sys2Proof.Machine

theorem vliBytes_one {n : Nat} (h : n < 64) : vliBytes n = [byteOf n] := by simp [vliBytes, h]

theorem vliBytes_two {n : Nat} (h : 64 ≤ n) (h' : n < 16384) : vliBytes n = beBytes 2 (n ||| 0x4000) := by
  rw [vliBytes, if_neg (by omega), if_pos h']

theorem vliBytes_three {n : Nat} (h : 16384 ≤ n) (h' : n < 4194304) :
    vliBytes n = byteOf ((n >>> 16) ||| 0x80) :: beBytes 2 (n &&& 0xFFFF) := by
  rw [vliBytes, if_neg (by omega), if_neg (by omega), if_pos h']

theorem vliBytes_four {n : Nat} (h : 4194304 ≤ n) : vliBytes n = beBytes 4 (n ||| 0xC0000000) := by
  rw [vliBytes, if_neg (by omega), if_neg (by omega), if_neg (by omega)]

theorem vliChecked_ok {n : Nat} (h : n < 1073741824) : vliChecked n = .ok (vliBytes n) := by
  rw [vliChecked, if_neg (by omega)]

theorem vliChecked_raised {n : Nat} (h : 1073741824 ≤ n) : vliChecked n = .error (.raised .integerTooLarge) := by
  rw [vliChecked, if_pos h]

theorem vliDec_nil : vliDec [] = none := rfl

theorem vliDec_cons (b0 : Byte) (rest : Bytes) :
    vliDec (b0 :: rest) =
      if rest.length < b0.toNat >>> 6 then none
      else some (beFold (b0.toNat &&& 0x3F) (rest.take (b0.toNat >>> 6)), (b0.toNat >>> 6) + 1) := by
  simp [vliDec]

theorem readBuffer_ok_iff (m : Memory) (n : Nat) (bs : Bytes) : readBuffer m n = .ok bs ↔ memRead m 0 n = some bs := by
  unfold readBuffer
  split <;> simp_all

theorem readBuffer_error {m : Memory} {n : Nat} {e : Stop} (h : readBuffer m n = .error e) :
    e = .refused .unwrittenByte := by
  unfold readBuffer at h
  split at h
  · cases h
  · simpa using h.symm

/-- What the flags of a request can be. -/
theorem requestFlags_ok_iff (r : Request) (fl : Bytes) :
    requestFlags r = .ok fl ↔
      ∃ name, memRead r.status 0 r.statusLen.toNat = some name ∧ fl = flags (idPresent r) r.tsValid name := by
  unfold requestFlags statusName
  cases h : readBuffer r.status r.statusLen.toNat with
  | error e =>
    constructor
    · intro h'
      cases h'
    · rintro ⟨name, hn, -⟩
      rw [(readBuffer_ok_iff _ _ _).mpr hn] at h
      cases h
  | ok name =>
    rw [readBuffer_ok_iff] at h
    simp [h, eq_comm]

theorem requestFlags_error {r : Request} {e : Stop} (h : requestFlags r = .error e) : e = .refused .unwrittenByte := by
  unfold requestFlags statusName at h
  cases h' : readBuffer r.status r.statusLen.toNat with
  | error e' =>
    rw [h'] at h
    obtain rfl : e' = e := by simpa using h
    exact readBuffer_error h'
  | ok name => simp [h'] at h

theorem timestampInContract_iff (r : Request) :
    timestampInContract r = true ↔ (r.tsValid = true → r.tsNsec.toNat < 1000000000) := by
  cases h : r.tsValid <;> simp [timestampInContract, h]

/-- The timestamp bytes of a request, or the refusal of R128. -/
theorem requestTimestamp_cases (r : Request) :
    ((r.tsValid = true → r.tsNsec.toNat < 1000000000) ∧
        requestTimestamp r = .ok (tsBytes r.tsValid r.tsSec.toNat r.tsNsec.toNat)) ∨
      (r.tsValid = true ∧ 1000000000 ≤ r.tsNsec.toNat ∧
        requestTimestamp r = .error (.refused .nanosecondsOutOfContract)) := by
  unfold requestTimestamp
  by_cases h : timestampInContract r = true
  · exact .inl ⟨(timestampInContract_iff r).mp h, by rw [if_pos h]⟩
  · refine .inr ?_
    have h' := mt (timestampInContract_iff r).mpr h
    push Not at h'
    exact ⟨h'.1, h'.2, by rw [if_neg h]⟩

/-- Everything the identifier encoder can do. -/
theorem idBytes_cases (buf : Memory) (n : Nat) :
    (n = 0 ∧ idBytes buf n = .ok []) ∨
      (1073741824 ≤ n ∧ idBytes buf n = .error (.raised .integerTooLarge)) ∨
      (0 < n ∧ n < 1073741824 ∧ memRead buf 0 n = none ∧ idBytes buf n = .error (.refused .unwrittenByte)) ∨
      ∃ bs, 0 < n ∧ n < 1073741824 ∧ memRead buf 0 n = some bs ∧ idBytes buf n = .ok (vliBytes n ++ bs) := by
  unfold idBytes
  by_cases h0 : n = 0
  · exact .inl ⟨h0, by rw [if_pos h0]⟩
  · rw [if_neg h0]
    by_cases h : 1073741824 ≤ n
    · exact .inr (.inl ⟨h, by rw [vliChecked_raised h]⟩)
    · rw [vliChecked_ok (by omega), readBuffer]
      cases hm : memRead buf 0 n with
      | none => exact .inr (.inr (.inl ⟨by omega, by omega, rfl, rfl⟩))
      | some bs => exact .inr (.inr (.inr ⟨bs, by omega, by omega, rfl, rfl⟩))

theorem message_ok_iff (r : Request) (m : Bytes) :
    message r = .ok m ↔ memRead r.ibuf 0 r.ibufLen.toNat = some m := readBuffer_ok_iff _ _ _

/-- What the checksum of a request can be. -/
theorem requestChecksum_ok_iff (r : Request) (res : Bytes) :
    requestChecksum r = .ok res ↔ ∃ m, memRead r.ibuf 0 r.ibufLen.toNat = some m ∧ res = checksum m := by
  unfold requestChecksum
  cases h : message r with
  | error e =>
    constructor
    · intro h'
      cases h'
    · rintro ⟨m, hm, -⟩
      rw [(message_ok_iff r m).mpr hm] at h
      cases h
  | ok m =>
    rw [message_ok_iff] at h
    simp [h, eq_comm]

@[simp] theorem checksum_length (m : Bytes) : (checksum m).length = 4 := by simp [checksum]

@[simp] theorem flags_length (i t : Bool) (name : Bytes) : (flags i t name).length = 2 := rfl

theorem provisionalBody_length (fl tsb idb : Bytes) :
    (provisionalBody fl tsb idb).length = 1 + fl.length + tsb.length + idb.length := by
  simp [provisionalBody]
  omega

theorem packetBody_length (fl lenb tsb idb : Bytes) :
    (packetBody fl lenb tsb idb).length = 1 + fl.length + lenb.length + tsb.length + idb.length := by
  simp [packetBody]
  omega

theorem crcRegister_append (m n : Bytes) : crcRegister (m ++ n) = n.foldl crcByte (crcRegister m) := by
  simp [crcRegister, List.foldl_append]

/-- Everything step 3 can choose. -/
theorem finalLength_cases (b : Nat) :
    (b ≤ 62 ∧ finalLength b = some (b + 1)) ∨ (62 < b ∧ b ≤ 16381 ∧ finalLength b = some (b + 2)) ∨
      (16381 < b ∧ b ≤ 4194300 ∧ finalLength b = some (b + 3)) ∨ (4194300 < b ∧ finalLength b = none) := by
  unfold finalLength
  split_ifs <;> simp <;> omega

/-- What steps 2 to 6 leave in the working registers. -/
theorem assemble_ok_iff (fl tsb idb : Bytes) (w : Work) :
    assemble fl tsb idb = .ok w ↔
      ∃ len, finalLength ((provisionalBody fl tsb idb).length + 4) = some len ∧
        w =
          { flags := fl, tsb := tsb, idb := idb, baseLen := (provisionalBody fl tsb idb).length + 4, len := len,
            lenb := vliBytes len,
            pkt := packetBody fl (vliBytes len) tsb idb ++ checksum (packetBody fl (vliBytes len) tsb idb),
            crcAcc := crcRegister (packetBody fl (vliBytes len) tsb idb) } := by
  unfold assemble
  cases h : finalLength ((provisionalBody fl tsb idb).length + 4) with
  | none => simp [h]
  | some len => simp [h, eq_comm]

theorem assemble_error {fl tsb idb : Bytes} {e : Stop} (h : assemble fl tsb idb = .error e) :
    e = .raised .packetTooLarge ∧ 4194300 < (provisionalBody fl tsb idb).length + 4 := by
  unfold assemble at h
  rcases finalLength_cases ((provisionalBody fl tsb idb).length + 4) with
    ⟨_, h'⟩ | ⟨_, _, h'⟩ | ⟨_, _, h'⟩ | ⟨hb, h'⟩ <;> simp only [h'] at h
  · cases h
  · cases h
  · cases h
  · exact ⟨by simpa using h.symm, hb⟩

/-- A packet is built exactly from the three sub-fields of its request. -/
theorem buildPacket_ok_iff (r : Request) (w : Work) :
    buildPacket r = .ok w ↔
      ∃ name idb, (r.tsValid = true → r.tsNsec.toNat < 1000000000) ∧
        memRead r.status 0 r.statusLen.toNat = some name ∧ idBytes r.ibuf r.ibufLen.toNat = .ok idb ∧
        assemble (flags (idPresent r) r.tsValid name) (tsBytes r.tsValid r.tsSec.toNat r.tsNsec.toNat) idb = .ok w := by
  unfold buildPacket
  rcases requestTimestamp_cases r with ⟨hc, ht⟩ | ⟨hv, hn, ht⟩
  · rw [ht]
    cases hf : requestFlags r with
    | error e =>
      simp only [reduceCtorEq, false_iff]
      rintro ⟨name, idb, -, hname, -⟩
      rw [(requestFlags_ok_iff r _).mpr ⟨name, hname, rfl⟩] at hf
      cases hf
    | ok fl =>
      obtain ⟨name, hname, rfl⟩ := (requestFlags_ok_iff r fl).mp hf
      cases hi : idBytes r.ibuf r.ibufLen.toNat with
      | error e => simp
      | ok idb =>
        simp only [hname, Option.some.injEq, Except.ok.injEq]
        constructor
        · intro h
          exact ⟨name, idb, hc, rfl, rfl, h⟩
        · rintro ⟨_, _, -, rfl, rfl, h⟩
          exact h
  · rw [ht]
    simp only [reduceCtorEq, false_iff]
    rintro ⟨_, _, hc, -⟩
    exact absurd (hc hv) (by omega)

end Sys2Proof.Machine
end

