-- ==== Sys2Proof/Laws/State.lean ====
section
/-! SUPPORT. What each update of the state does to each field: one lemma per field per update, so that no later proof
unfolds a record update. -/

namespace Sys2Proof.Machine

@[simp] theorem respond_req (r : Response) (s : State) : (respond r s).req = s.req := rfl
@[simp] theorem respond_busy (r : Response) (s : State) : (respond r s).busy = false := rfl
@[simp] theorem respond_work (r : Response) (s : State) : (respond r s).work = Work.cleared := rfl
@[simp] theorem respond_sinkWrites (r : Response) (s : State) : (respond r s).sinkWrites = s.sinkWrites := rfl
@[simp] theorem respond_sinkLog (r : Response) (s : State) : (respond r s).sinkLog = s.sinkLog := rfl
@[simp] theorem respond_responses (r : Response) (s : State) : (respond r s).responses = s.responses ++ [r] := rfl
@[simp] theorem respond_host (r : Response) (s : State) : (respond r s).host = s.host := rfl
@[simp] theorem respond_sinkAnswers (r : Response) (s : State) : (respond r s).sinkAnswers = s.sinkAnswers := rfl
@[simp] theorem respond_reader (r : Response) (s : State) : (respond r s).reader = s.reader := rfl

@[simp] theorem deliver_req (res : Bytes) (s : State) : (deliver res s).req = s.req := rfl
@[simp] theorem deliver_busy (res : Bytes) (s : State) : (deliver res s).busy = false := rfl
@[simp] theorem deliver_work (res : Bytes) (s : State) : (deliver res s).work = Work.cleared := rfl
@[simp] theorem deliver_sinkWrites (res : Bytes) (s : State) : (deliver res s).sinkWrites = s.sinkWrites := rfl
@[simp] theorem deliver_sinkLog (res : Bytes) (s : State) : (deliver res s).sinkLog = s.sinkLog := rfl
@[simp] theorem deliver_responses (res : Bytes) (s : State) : (deliver res s).responses = s.responses ++ [{ kind := .ok, res := res, sinkErr := none }] := rfl
@[simp] theorem deliver_host (res : Bytes) (s : State) : (deliver res s).host = s.host := rfl
@[simp] theorem deliver_sinkAnswers (res : Bytes) (s : State) : (deliver res s).sinkAnswers = s.sinkAnswers := rfl
@[simp] theorem deliver_reader (res : Bytes) (s : State) : (deliver res s).reader = s.reader := rfl

@[simp] theorem raiseError_req (k : ErrorKind) (s : State) : (raiseError k s).req = s.req := rfl
@[simp] theorem raiseError_busy (k : ErrorKind) (s : State) : (raiseError k s).busy = false := rfl
@[simp] theorem raiseError_work (k : ErrorKind) (s : State) : (raiseError k s).work = Work.cleared := rfl
@[simp] theorem raiseError_sinkWrites (k : ErrorKind) (s : State) : (raiseError k s).sinkWrites = s.sinkWrites := rfl
@[simp] theorem raiseError_sinkLog (k : ErrorKind) (s : State) : (raiseError k s).sinkLog = s.sinkLog := rfl
@[simp] theorem raiseError_responses (k : ErrorKind) (s : State) : (raiseError k s).responses = s.responses ++ [errorResponse k] := rfl
@[simp] theorem raiseError_host (k : ErrorKind) (s : State) : (raiseError k s).host = s.host := rfl
@[simp] theorem raiseError_sinkAnswers (k : ErrorKind) (s : State) : (raiseError k s).sinkAnswers = s.sinkAnswers := rfl
@[simp] theorem raiseError_reader (k : ErrorKind) (s : State) : (raiseError k s).reader = s.reader := rfl

@[simp] theorem resetBlock_req (s : State) : (resetBlock s).req = Request.reset := rfl
@[simp] theorem resetBlock_busy (s : State) : (resetBlock s).busy = false := rfl
@[simp] theorem resetBlock_work (s : State) : (resetBlock s).work = Work.cleared := rfl
@[simp] theorem resetBlock_sinkWrites (s : State) : (resetBlock s).sinkWrites = s.sinkWrites := rfl
@[simp] theorem resetBlock_sinkLog (s : State) : (resetBlock s).sinkLog = s.sinkLog := rfl
@[simp] theorem resetBlock_responses (s : State) : (resetBlock s).responses = s.responses := rfl
@[simp] theorem resetBlock_host (s : State) : (resetBlock s).host = s.host := rfl
@[simp] theorem resetBlock_sinkAnswers (s : State) : (resetBlock s).sinkAnswers = s.sinkAnswers := rfl
@[simp] theorem resetBlock_reader (s : State) : (resetBlock s).reader = s.reader := rfl

@[simp] theorem readInteger_req (bytes : Bytes) (s : State) : (readInteger bytes s).req = s.req := rfl
@[simp] theorem readInteger_busy (bytes : Bytes) (s : State) : (readInteger bytes s).busy = s.busy := rfl
@[simp] theorem readInteger_work (bytes : Bytes) (s : State) : (readInteger bytes s).work = s.work := rfl
@[simp] theorem readInteger_sinkWrites (bytes : Bytes) (s : State) : (readInteger bytes s).sinkWrites = s.sinkWrites := rfl
@[simp] theorem readInteger_sinkLog (bytes : Bytes) (s : State) : (readInteger bytes s).sinkLog = s.sinkLog := rfl
@[simp] theorem readInteger_responses (bytes : Bytes) (s : State) : (readInteger bytes s).responses = s.responses := rfl
@[simp] theorem readInteger_host (bytes : Bytes) (s : State) : (readInteger bytes s).host = s.host := rfl
@[simp] theorem readInteger_sinkAnswers (bytes : Bytes) (s : State) : (readInteger bytes s).sinkAnswers = s.sinkAnswers := rfl
@[simp] theorem readInteger_reader (bytes : Bytes) (s : State) : (readInteger bytes s).reader = { s.reader with integer := vliDec bytes } := rfl

@[simp] theorem readFlags_req (f0 f1 : Byte) (s : State) : (readFlags f0 f1 s).req = s.req := rfl
@[simp] theorem readFlags_busy (f0 f1 : Byte) (s : State) : (readFlags f0 f1 s).busy = s.busy := rfl
@[simp] theorem readFlags_work (f0 f1 : Byte) (s : State) : (readFlags f0 f1 s).work = s.work := rfl
@[simp] theorem readFlags_sinkWrites (f0 f1 : Byte) (s : State) : (readFlags f0 f1 s).sinkWrites = s.sinkWrites := rfl
@[simp] theorem readFlags_sinkLog (f0 f1 : Byte) (s : State) : (readFlags f0 f1 s).sinkLog = s.sinkLog := rfl
@[simp] theorem readFlags_responses (f0 f1 : Byte) (s : State) : (readFlags f0 f1 s).responses = s.responses := rfl
@[simp] theorem readFlags_host (f0 f1 : Byte) (s : State) : (readFlags f0 f1 s).host = s.host := rfl
@[simp] theorem readFlags_sinkAnswers (f0 f1 : Byte) (s : State) : (readFlags f0 f1 s).sinkAnswers = s.sinkAnswers := rfl
@[simp] theorem readFlags_reader (f0 f1 : Byte) (s : State) : (readFlags f0 f1 s).reader = { s.reader with version := f0.extractLsb' 4 4, idPresent := f0.getLsbD 3, tsPresent := f0.getLsbD 1, status := f1.setWidth 3 } := rfl

@[simp] theorem readSignature_req (s : State) : (readSignature s).req = s.req := rfl
@[simp] theorem readSignature_busy (s : State) : (readSignature s).busy = s.busy := rfl
@[simp] theorem readSignature_work (s : State) : (readSignature s).work = s.work := rfl
@[simp] theorem readSignature_sinkWrites (s : State) : (readSignature s).sinkWrites = s.sinkWrites := rfl
@[simp] theorem readSignature_sinkLog (s : State) : (readSignature s).sinkLog = s.sinkLog := rfl
@[simp] theorem readSignature_responses (s : State) : (readSignature s).responses = s.responses := rfl
@[simp] theorem readSignature_host (s : State) : (readSignature s).host = s.host := rfl
@[simp] theorem readSignature_sinkAnswers (s : State) : (readSignature s).sinkAnswers = s.sinkAnswers := rfl
@[simp] theorem readSignature_reader (s : State) : (readSignature s).reader = { s.reader with signature := true } := rfl

@[simp] theorem withFetchWord_busy (s : State) (nbits w : Nat) : (s.withFetchWord nbits w).busy = false := rfl
@[simp] theorem withFetchWord_work (s : State) (nbits w : Nat) : (s.withFetchWord nbits w).work = Work.cleared := rfl
@[simp] theorem withFetchWord_host (s : State) (nbits w : Nat) :
    (s.withFetchWord nbits w).host = wordAction nbits w s :: s.host := rfl
@[simp] theorem withFetchWord_req (s : State) (nbits w : Nat) : (s.withFetchWord nbits w).req = s.req := rfl
@[simp] theorem withFetchWord_reader (s : State) (nbits w : Nat) : (s.withFetchWord nbits w).reader = s.reader := rfl

@[simp] theorem reset_busy : State.reset.busy = false := rfl
@[simp] theorem reset_req : State.reset.req = Request.reset := rfl
@[simp] theorem reset_work : State.reset.work = Work.cleared := rfl
@[simp] theorem reset_host : State.reset.host = [] := rfl
@[simp] theorem reset_responses : State.reset.responses = [] := rfl
@[simp] theorem reset_sinkWrites : State.reset.sinkWrites = [] := rfl
@[simp] theorem reset_sinkLog : State.reset.sinkLog = [] := rfl

end Sys2Proof.Machine
end

