-- ==== Sys2Proof/Laws/Ops.lean ====
section
/-! SUPPORT. What each shared operation can do, said once: the provers cite these instead of unfolding it. -/

namespace Sys2Proof.Machine

@[simp] theorem whenIdle_idle {s : State} (h : s.busy = false) (run : Outcome) : whenIdle s run = run := by
  simp [whenIdle, h]

@[simp] theorem whenIdle_busy {s : State} (h : s.busy = true) (run : Outcome) :
    whenIdle s run = .fault .requestWhileBusy := by
  simp [whenIdle, h]

/-- An operation answers a next state only on an idle block. -/
theorem whenIdle_next {s t : State} {run : Outcome} (h : whenIdle s run = .next t) : s.busy = false ∧ run = .next t := by
  cases hb : s.busy
  · exact ⟨rfl, by rwa [whenIdle_idle hb] at h⟩
  · rw [whenIdle_busy hb] at h
    cases h

theorem unitOperation_ok {s : State} (h : s.busy = false) (res : Bytes) :
    unitOperation s (.ok res) = .next (deliver res s) := by
  simp [unitOperation, h]

theorem unitOperation_raised {s : State} (h : s.busy = false) (k : ErrorKind) :
    unitOperation s (.error (.raised k)) = .next (raiseError k s) := by
  simp [unitOperation, h]

theorem unitOperation_refused {s : State} (h : s.busy = false) (r : Refusal) :
    unitOperation s (.error (.refused r)) = .refused r := by
  simp [unitOperation, h]

/-- A unit operation answers a next state by delivering its bytes or by raising its error. -/
theorem unitOperation_next {s t : State} {result : Except Stop Bytes} (h : unitOperation s result = .next t) :
    s.busy = false ∧
      ((∃ res, result = .ok res ∧ t = deliver res s) ∨
        ∃ k, result = .error (.raised k) ∧ t = raiseError k s) := by
  obtain ⟨hb, hr⟩ := whenIdle_next h
  refine ⟨hb, ?_⟩
  rcases result with (k | r) | res
  · exact .inr ⟨k, rfl, by simpa using hr.symm⟩
  · cases hr
  · exact .inl ⟨res, rfl, by simpa using hr.symm⟩

@[simp] theorem errorResponse_res (k : ErrorKind) : (errorResponse k).res = [] := by cases k <;> rfl

theorem errorResponse_kind_ne_ok (k : ErrorKind) : (errorResponse k).kind ≠ .ok := by cases k <;> simp [errorResponse]

/-- With no answer at hand the operation goes on waiting. -/
theorem awaitSink_unanswered {s : State} (h : s.sinkAnswers = []) : awaitSink s = s := by
  simp [awaitSink, h]

/-- An accepted write ends the operation with OK. -/
theorem awaitSink_accepted {s : State} {rest : List SinkAnswer} (h : s.sinkAnswers = .ok :: rest) :
    awaitSink s =
      { s with
        busy := false, work := Work.cleared, sinkAnswers := rest, sinkLog := s.sinkLog ++ [s.work.pkt],
        responses := s.responses ++ [{ kind := .ok, res := [], sinkErr := none }] } := by
  simp only [awaitSink, h]
  rfl

/-- A rejected write ends the operation with SinkWriteFailure and the sink's own failure value. -/
theorem awaitSink_rejected {s : State} {e : Config.SinkError} {rest : List SinkAnswer}
    (h : s.sinkAnswers = .fail e :: rest) :
    awaitSink s =
      { s with
        busy := false, work := Work.cleared, sinkAnswers := rest,
        responses := s.responses ++ [{ kind := .sinkWriteFailure, res := [], sinkErr := some e }] } := by
  simp only [awaitSink, h]
  rfl

/-- Everything an outstanding write can meet. -/
theorem awaitSink_cases (s : State) :
    (s.sinkAnswers = [] ∧ awaitSink s = s) ∨
      (∃ rest, s.sinkAnswers = .ok :: rest ∧
        awaitSink s =
          { s with
            busy := false, work := Work.cleared, sinkAnswers := rest, sinkLog := s.sinkLog ++ [s.work.pkt],
            responses := s.responses ++ [{ kind := .ok, res := [], sinkErr := none }] }) ∨
      ∃ e rest, s.sinkAnswers = .fail e :: rest ∧
        awaitSink s =
          { s with
            busy := false, work := Work.cleared, sinkAnswers := rest,
            responses := s.responses ++ [{ kind := .sinkWriteFailure, res := [], sinkErr := some e }] } := by
  rcases h : s.sinkAnswers with _ | ⟨_ | e, rest⟩
  · exact .inl ⟨rfl, awaitSink_unanswered h⟩
  · exact .inr (.inl ⟨rest, rfl, awaitSink_accepted h⟩)
  · exact .inr (.inr ⟨e, rest, rfl, awaitSink_rejected h⟩)

/-- The write itself: one more packet written, the operation in progress until the answer. -/
theorem sinkWrite_eq (w : Work) (s : State) :
    sinkWrite w s = awaitSink { s with busy := true, work := w, sinkWrites := s.sinkWrites ++ [w.pkt] } := rfl

@[simp] theorem awaitSink_req (s : State) : (awaitSink s).req = s.req := by
  rcases awaitSink_cases s with ⟨_, h⟩ | ⟨_, _, h⟩ | ⟨_, _, _, h⟩ <;> rw [h]

@[simp] theorem awaitSink_host (s : State) : (awaitSink s).host = s.host := by
  rcases awaitSink_cases s with ⟨_, h⟩ | ⟨_, _, h⟩ | ⟨_, _, _, h⟩ <;> rw [h]

@[simp] theorem awaitSink_reader (s : State) : (awaitSink s).reader = s.reader := by
  rcases awaitSink_cases s with ⟨_, h⟩ | ⟨_, _, h⟩ | ⟨_, _, _, h⟩ <;> rw [h]

@[simp] theorem awaitSink_sinkWrites (s : State) : (awaitSink s).sinkWrites = s.sinkWrites := by
  rcases awaitSink_cases s with ⟨_, h⟩ | ⟨_, _, h⟩ | ⟨_, _, _, h⟩ <;> rw [h]

@[simp] theorem sinkWrite_req (w : Work) (s : State) : (sinkWrite w s).req = s.req := by simp [sinkWrite]
@[simp] theorem sinkWrite_host (w : Work) (s : State) : (sinkWrite w s).host = s.host := by simp [sinkWrite]
@[simp] theorem sinkWrite_reader (w : Work) (s : State) : (sinkWrite w s).reader = s.reader := by simp [sinkWrite]
@[simp] theorem sinkWrite_sinkWrites (w : Work) (s : State) :
    (sinkWrite w s).sinkWrites = s.sinkWrites ++ [w.pkt] := by simp [sinkWrite]

end Sys2Proof.Machine
end

