-- ==== Sys2Proof/Laws/PerInstr.lean ====
section
/-! SUPPORT. One fact about every instruction as syntax, one lemma per constructor: how many bytes its encoding takes
(30_encoding.md R60, R62, R64, R65). -/

namespace Sys2Proof.Laws.EncodeLength

/-- The bytes a row of spec/opcode_table.json takes. -/
def rowBytes : Instr → Nat
  | .vli => 1
  | .flg => 1
  | .tse => 1
  | .ide => 1
  | .crc => 1
  | .enc => 1
  | .reservedOp6 => 1
  | .reservedOp7 => 1
  | .wireVli1 _ => 1
  | .wireVli2 _ => 2
  | .wireVli3 _ => 3
  | .wireVli4 _ => 4
  | .wireSignature => 1
  | .wireFlags _ _ _ => 2

/-- The encoding of an instruction has the length of its row. -/
def Statement (i : Instr) : Prop := (encode i).length = rowBytes i

theorem vli : Statement .vli := rfl
theorem flg : Statement .flg := rfl
theorem tse : Statement .tse := rfl
theorem ide : Statement .ide := rfl
theorem crc : Statement .crc := rfl
theorem enc : Statement .enc := rfl
theorem reservedOp6 : Statement .reservedOp6 := rfl
theorem reservedOp7 : Statement .reservedOp7 := rfl
theorem wireVli1 (v : Nat) : Statement (.wireVli1 v) := rfl
theorem wireVli2 (v : Nat) : Statement (.wireVli2 v) := rfl
theorem wireVli3 (v : Nat) : Statement (.wireVli3 v) := rfl
theorem wireVli4 (v : Nat) : Statement (.wireVli4 v) := rfl
theorem wireSignature : Statement .wireSignature := rfl
theorem wireFlags (i t : Bool) (s : BitVec 3) : Statement (.wireFlags i t s) := rfl

end Sys2Proof.Laws.EncodeLength
end

