-- ==== Sys2Proof/Laws/Step.lean ====
section
/-! SUPPORT. What ENC, the fetch and the step can do, said once. -/

namespace Sys2Proof.Machine

/-- ENC answers a next state by writing its packet or by raising its error. -/
theorem execEnc_next {s t : State} (h : execEnc s = .next t) :
    s.busy = false ∧
      ((∃ w, buildPacket s.req = .ok w ∧ t = sinkWrite w s) ∨
        ∃ k, buildPacket s.req = .error (.raised k) ∧ t = raiseError k s) := by
  obtain ⟨hb, hr⟩ := whenIdle_next h
  refine ⟨hb, ?_⟩
  cases hp : buildPacket s.req with
  | ok w =>
    rw [hp] at hr
    exact .inl ⟨w, rfl, by simpa using hr.symm⟩
  | error e =>
    rw [hp] at hr
    cases e with
    | raised k => exact .inr ⟨k, rfl, by simpa using hr.symm⟩
    | refused r => cases hr

theorem execEnc_ok {s : State} (h : s.busy = false) {w : Work} (hw : buildPacket s.req = .ok w) :
    execEnc s = .next (sinkWrite w s) := by
  simp [execEnc, h, hw]

theorem execEnc_raised {s : State} (h : s.busy = false) {k : ErrorKind}
    (hk : buildPacket s.req = .error (.raised k)) : execEnc s = .next (raiseError k s) := by
  simp [execEnc, h, hk]

/-- A request always reaches an instruction: the 3 bits of `OP` select one of the eight codes. -/
theorem fetchRequest_eq (r : Request) (s : State) :
    fetchRequest r s = .instr (decodeOp r.op) { s with req := r } := by
  have h : decode .request [requestByte r.op] = .ok (decodeOp r.op, []) := by
    generalize r.op = op
    revert op
    decide
  simp [fetchRequest, h]

/-- Bytes of no wire pattern change nothing but the reader. -/
theorem readUnmatched_some {f : WireField} {bytes : Bytes} {s t : State} (h : readUnmatched f bytes s = some t) :
    t = { s with reader := t.reader } := by
  match f, bytes, h with
  | .integer, _, rfl => rfl
  | .flags, _ :: _ :: _, rfl => rfl

/-- Everything a step can do. -/
theorem step_next {s t : State} (h : step s = .next t) :
    (s.busy = true ∧ t = awaitSink s) ∨
      (s.busy = false ∧ s.host = [] ∧ t = s) ∨
      (∃ rest, s.busy = false ∧ s.host = .reset :: rest ∧ t = resetBlock { s with host := rest }) ∨
      (∃ r rest, s.busy = false ∧ s.host = .request r :: rest ∧
        exec (decodeOp r.op) { s with host := rest, req := r } = .next t) ∨
      (∃ f bytes rest i after, s.busy = false ∧ s.host = .wire f bytes :: rest ∧
        decode (.wire f) bytes = .ok (i, after) ∧ exec i { s with host := rest } = .next t) ∨
      ∃ f bytes rest, s.busy = false ∧ s.host = .wire f bytes :: rest ∧
        readUnmatched f bytes { s with host := rest } = some t := by
  rcases Bool.eq_false_or_eq_true s.busy with hb | hb
  · exact .inl ⟨hb, by simpa [step, hb] using h.symm⟩
  refine .inr ?_
  simp only [step, hb, Bool.false_eq_true, if_false] at h
  rcases hh : s.host with _ | ⟨_ | ⟨f, bytes⟩ | _, rest⟩
  · exact .inl ⟨hb, rfl, by simpa [fetch, hh] using h.symm⟩
  · rename_i r
    exact .inr (.inr (.inl ⟨r, rest, hb, rfl, by simpa [fetch, hh, fetchRequest_eq] using h⟩))
  · refine .inr (.inr (.inr ?_))
    cases hd : decode (.wire f) bytes with
    | ok p => exact .inl ⟨f, bytes, rest, p.1, p.2, hb, rfl, hd, by simpa [fetch, hh, fetchWire, hd] using h⟩
    | error e =>
      refine .inr ⟨f, bytes, rest, hb, rfl, ?_⟩
      cases hr : readUnmatched f bytes { s with host := rest } with
      | none => simp [fetch, hh, fetchWire, hd, hr] at h
      | some s' => simpa [fetch, hh, fetchWire, hd, hr] using h
  · exact .inr (.inl ⟨rest, hb, rfl, by simpa [fetch, hh] using h.symm⟩)

/-- An operation in progress only waits for the sink. -/
theorem step_busy {s : State} (h : s.busy = true) : step s = .next (awaitSink s) := by simp [step, h]

/-- An idle machine whose host asks for nothing stays as it is. -/
theorem step_nothing {s : State} (h : s.busy = false) (hh : s.host = []) : step s = .next s := by
  simp [step, h, fetch, hh]

end Sys2Proof.Machine
end

