-- ==== Sys2Proof/Tests/Slice0.lean ====
section
/-! SUPPORT. The model's own tests. Every expected value is the spec's: 30_encoding.md for the words, 95_test_vectors.md
for the results. Then a state for the hypotheses of each statement that has any. -/

namespace Sys2Proof.Tests

open Sys2Proof.Machine

/-! ### Ill-formed terms are refused -/

theorem test_wf_vli1 : (Instr.wireVli1 64).wf = false := by decide
theorem test_wf_vli2 : (Instr.wireVli2 16384).wf = false := by decide
theorem test_wf_vli3 : (Instr.wireVli3 4194304).wf = false := by decide
theorem test_wf_vli4 : (Instr.wireVli4 1073741824).wf = false := by decide

/-! ### Bytes written out from the patterns of R62 to R65, and `OP` codes of R60 in a byte (notes/assumptions/6.md) -/

/-- What a decoding gives; `Except` of these types has no decidable equality. -/
def decoded (r : Except DecodeError (Instr × Bytes)) : Option (Instr × Bytes) :=
  match r with
  | .ok p => some p
  | .error _ => none

/-- The name of a rejection. -/
def rejected (r : Except DecodeError (Instr × Bytes)) : Option DecodeError :=
  match r with
  | .ok _ => none
  | .error e => some e

theorem test_decode_vli : decoded (decode .request [0b00000000#8]) = some (.vli, []) := by decide
theorem test_decode_flg : decoded (decode .request [0b00000001#8]) = some (.flg, []) := by decide
theorem test_decode_tse : decoded (decode .request [0b00000010#8]) = some (.tse, []) := by decide
theorem test_decode_ide : decoded (decode .request [0b00000011#8]) = some (.ide, []) := by decide
theorem test_decode_crc : decoded (decode .request [0b00000100#8]) = some (.crc, []) := by decide
theorem test_decode_enc : decoded (decode .request [0b00000101#8]) = some (.enc, []) := by decide
theorem test_decode_op6 : decoded (decode .request [0b00000110#8]) = some (.reservedOp6, []) := by decide
theorem test_decode_op7 : decoded (decode .request [0b00000111#8]) = some (.reservedOp7, []) := by decide
theorem test_decode_wireVli1 :
    decoded (decode (.wire .integer) [0b00111111#8, 0xAA#8]) = some (.wireVli1 63, [0xAA#8]) := by decide
theorem test_decode_wireVli2 :
    decoded (decode (.wire .integer) [0b01000001#8, 0b00000000#8]) = some (.wireVli2 256, []) := by decide
theorem test_decode_wireVli3 :
    decoded (decode (.wire .integer) [0b10000001#8, 0b00000010#8, 0b00000011#8]) = some (.wireVli3 66051, []) := by
  decide
theorem test_decode_wireVli4 :
    decoded (decode (.wire .integer) [0b11111011#8, 0b10011010#8, 0b11001001#8, 0b11111111#8]) =
      some (.wireVli4 999999999, []) := by decide
theorem test_decode_wireSignature :
    decoded (decode (.wire .signature) [0b10110011#8]) = some (.wireSignature, []) := by decide
theorem test_decode_wireFlags :
    decoded (decode (.wire .flags) [0b00101000#8, 0b00000110#8]) = some (.wireFlags true false 6#3, []) := by decide
theorem test_decode_not_signature : rejected (decode (.wire .signature) [0xB2#8]) = some .notSignature := by decide
theorem test_decode_reserved_flag : rejected (decode (.wire .flags) [0x21#8, 0x00#8]) = some .flagsFixedBits := by decide
theorem test_decode_truncated : rejected (decode (.wire .integer) [0xC0#8, 0x01#8, 0x02#8]) = some .truncated := by decide
theorem test_decode_op_range : rejected (decode .request [0x08#8]) = some .opOutOfRange := by decide
theorem test_table_words :
    decodeTableWord 8 5 = some .enc ∧ decodeTableWord 8 0xB3 = some .wireSignature ∧
      decodeTableWord 8 0x3F = some (.wireVli1 63) ∧ decodeTableWord 16 0x4040 = some (.wireVli2 64) ∧
      decodeTableWord 16 0x2A07 = some (.wireFlags true true 7#3) ∧
      decodeTableWord 24 0x804000 = some (.wireVli3 16384) ∧
      decodeTableWord 32 0xC0400000 = some (.wireVli4 4194304) := by decide

/-! ### One step on a small state -/

/-- A request for the tests: the buffers filled with byte strings. -/
def request (op n : Nat) (ident name : Bytes) (ts : Option (Nat × Nat)) : Request :=
  { op := BitVec.ofNat 3 op, n := BitVec.ofNat 32 n, ibuf := bufferOf ident, ibufLen := BitVec.ofNat 32 ident.length,
    status := bufferOf name, statusLen := BitVec.ofNat 8 name.length, tsValid := ts.isSome,
    tsSec := BitVec.ofNat 32 (ts.getD (0, 0)).1, tsNsec := BitVec.ofNat 30 (ts.getD (0, 0)).2 }

/-- An idle block with these request registers, and the sink's answers to come. -/
def idleWith (r : Request) (answers : List SinkAnswer) : State :=
  { State.reset with req := r, sinkAnswers := answers }

/-- The next state, if there is one. -/
def stateOf : Outcome → Option State
  | .next t => some t
  | _ => none

/-- The response delivered last. -/
def responseOf (o : Outcome) : Option Response := (stateOf o).bind (fun t => t.responses.getLast?)

/-- The refusal, if it is one. -/
def refusalOf : Outcome → Option Refusal
  | .refused r => some r
  | _ => none

/-- The bytes of the identifier "A". -/
def identA : Bytes := [0x41#8]

/-- The name "success". -/
def nameSuccess : Bytes := asciiBytes ['s', 'u', 'c', 'c', 'e', 's', 's']

/-- The name "xfail". -/
def nameXfail : Bytes := asciiBytes ['x', 'f', 'a', 'i', 'l']

/-- A name that is not in the table. -/
def nameBogus : Bytes := asciiBytes ['b', 'o', 'g', 'u', 's']

/-- The packet of `ENC id="A" status="success" ts=none` (95_test_vectors.md section 2.6). -/
def packetA : Bytes := [0xB3#8, 0x28#8, 0x03#8, 0x0A#8, 0x01#8, 0x41#8, 0xDB#8, 0xCF#8, 0xCE#8, 0xC2#8]

theorem test_vli_64 :
    responseOf (exec .vli (idleWith (request 0 64 [] [] none) [])) =
      some { kind := .ok, res := [0x40#8, 0x40#8], sinkErr := none } := by decide
theorem test_vli_overflow :
    responseOf (exec .vli (idleWith (request 0 1073741824 [] [] none) [])) =
      some { kind := .integerTooLarge, res := [], sinkErr := none } := by decide
theorem test_flg_success :
    responseOf (exec .flg (idleWith (request 1 0 identA nameSuccess none) [])) =
      some { kind := .ok, res := [0x28#8, 0x03#8], sinkErr := none } := by decide
theorem test_flg_capital :
    responseOf (exec .flg (idleWith (request 1 0 [] (asciiBytes ['S', 'u', 'c', 'c', 'e', 's', 's']) (some (0, 0))) [])) =
      some { kind := .ok, res := [0x22#8, 0x00#8], sinkErr := none } := by decide
theorem test_tse_byte_order :
    responseOf (exec .tse (idleWith (request 2 0 [] [] (some (305419896, 999999999))) [])) =
      some { kind := .ok, res := [0x12#8, 0x34#8, 0x56#8, 0x78#8, 0xFB#8, 0x9A#8, 0xC9#8, 0xFF#8],
             sinkErr := none } := by decide
theorem test_tse_contract :
    refusalOf (exec .tse (idleWith (request 2 0 [] [] (some (0, 1000000000))) [])) =
      some .nanosecondsOutOfContract := by decide
theorem test_ide_two_bytes :
    responseOf (exec .ide (idleWith (request 3 0 [0xC3#8, 0xA9#8] [] none) [])) =
      some { kind := .ok, res := [0x02#8, 0xC3#8, 0xA9#8], sinkErr := none } := by decide
/-- Request 3 of program P4: the length fails before a byte of the buffer is read. -/
theorem test_ide_overflow :
    responseOf (exec .ide (idleWith { request 3 0 [] [] none with ibufLen := 0x40000000#32 } [])) =
      some { kind := .integerTooLarge, res := [], sinkErr := none } := by decide
theorem test_crc_document :
    responseOf (exec .crc (idleWith (request 4 0 [0xB3#8, 0x20#8, 0x00#8, 0x08#8] [] none) [])) =
      some { kind := .ok, res := [0x18#8, 0x15#8, 0xF0#8, 0xBA#8], sinkErr := none } := by decide +kernel
theorem test_crc_empty :
    responseOf (exec .crc (idleWith (request 4 0 [] [] none) [])) =
      some { kind := .ok, res := [0x00#8, 0x00#8, 0x00#8, 0x00#8], sinkErr := none } := by decide
theorem test_enc_accepted :
    (stateOf (exec .enc (idleWith (request 5 0 identA nameSuccess none) [.ok]))).map (fun t => t.sinkLog) =
      some [packetA] := by decide +kernel
theorem test_enc_rejected :
    responseOf (exec .enc (idleWith (request 5 0 identA nameSuccess none) [.fail 7])) =
      some { kind := .sinkWriteFailure, res := [], sinkErr := some 7 } := by decide
theorem test_reserved_op6 : refusalOf (exec .reservedOp6 State.reset) = some (.reservedOperation 6#3) := by decide
theorem test_reserved_op7 : refusalOf (exec .reservedOp7 State.reset) = some (.reservedOperation 7#3) := by decide
theorem test_wireVli1 :
    (stateOf (exec (.wireVli1 63) State.reset)).map (fun t => t.reader.integer) = some (some (63, 1)) := by decide
/-- The non-minimal form of 5 (R101). -/
theorem test_wireVli2_non_minimal :
    (stateOf (exec (.wireVli2 5) State.reset)).map (fun t => t.reader.integer) = some (some (5, 2)) := by decide
theorem test_wireVli3 :
    (stateOf (exec (.wireVli3 65536) State.reset)).map (fun t => t.reader.integer) = some (some (65536, 3)) := by decide
theorem test_wireVli4 :
    (stateOf (exec (.wireVli4 999999999) State.reset)).map (fun t => t.reader.integer) =
      some (some (999999999, 4)) := by decide
theorem test_wireSignature :
    (stateOf (exec .wireSignature State.reset)).map (fun t => t.reader.signature) = some true := by decide
theorem test_wireFlags :
    (stateOf (exec (.wireFlags true false 6#3) State.reset)).map
        (fun t => (t.reader.version, t.reader.idPresent, t.reader.tsPresent, t.reader.status)) =
      some (2#4, true, false, 6#3) := by decide
/-- The parse of the packet with one bit changed fails (95_test_vectors.md section 2.6). -/
theorem test_parse_packetA :
    parse packetA =
      some { version := 2#4, status := 3#3, timestamp := none, identifier := identA } := by decide +kernel
theorem test_parse_changed_bit :
    parse [0xB3#8, 0x28#8, 0x03#8, 0x0A#8, 0x01#8, 0x40#8, 0xDB#8, 0xCF#8, 0xCE#8, 0xC2#8] = none := by decide +kernel
/-- The next step after reset runs the word placed. -/
theorem test_fetch_word :
    responseOf (step (State.reset.withFetchWord 8 4)) =
      some { kind := .ok, res := [0x00#8, 0x00#8, 0x00#8, 0x00#8], sinkErr := none } := by decide

/-! ### The hypotheses of the statements can be met -/

/-- A request whose identifier is so many bytes `61`; the status is empty. -/
def longRequest (n : Nat) (ts : Option (Nat × Nat)) : Request :=
  request 5 0 (List.replicate n 0x61#8) [] ts

theorem longRequest_hasBuffer {n : Nat} (h : n < 4294967296) (ts : Option (Nat × Nat)) :
    (longRequest n ts).HasBuffer (List.replicate n 0x61#8) := by
  have hr : (longRequest n ts).ibufLen.toNat = (List.replicate n 0x61#8).length := by
    simp only [longRequest, request, BitVec.toNat_ofNat, List.length_replicate]
    exact Nat.mod_eq_of_lt h
  unfold Request.HasBuffer
  rw [hr]
  exact memRead_bufferOf _

theorem longRequest_ibufLen {n : Nat} (h : n < 4294967296) (ts : Option (Nat × Nat)) :
    (longRequest n ts).ibufLen.toNat = n := by
  simp only [longRequest, request, BitVec.toNat_ofNat, List.length_replicate]
  exact Nat.mod_eq_of_lt h

theorem longRequest_hasStatus (n : Nat) (ts : Option (Nat × Nat)) : (longRequest n ts).HasStatus [] := rfl

/-- A long identifier without a timestamp is built where the thresholds allow it. -/
theorem longRequest_built {n len : Nat} (h0 : 0 < n) (h : n < 1073741824)
    (hl : finalLength (7 + ((vliBytes n).length + n)) = some len) :
    ∃ w, buildPacket (longRequest n none) = .ok w ∧ w.len = len := by
  have hn : n < 4294967296 := by omega
  have hid : idBytes (longRequest n none).ibuf (longRequest n none).ibufLen.toNat =
      .ok (vliBytes n ++ List.replicate n 0x61#8) := by
    have hb : memRead (longRequest n none).ibuf 0 n = some (List.replicate n 0x61#8) := by
      have := longRequest_hasBuffer hn none
      unfold Request.HasBuffer at this
      rwa [longRequest_ibufLen hn] at this
    rw [longRequest_ibufLen hn]
    rcases idBytes_cases (longRequest n none).ibuf n with h' | h' | h' | ⟨bs, _, _, hm, h'⟩
    · omega
    · omega
    · rw [hb] at h'
      cases h'.2.2.1
    · rw [hb] at hm
      obtain rfl : List.replicate n 0x61#8 = bs := by simpa using hm
      exact h'
  refine ⟨_, (buildPacket_ok_iff _ _).mpr
    ⟨[], _, (fun h => by cases h), longRequest_hasStatus n none, hid, (assemble_ok_iff _ _ _ _).mpr ⟨len, ?_, rfl⟩⟩, rfl⟩
  rw [← hl]
  congr 1
  simp [provisionalBody, tsBytes, longRequest, request, flags]
  omega

/-- The smallest request (R167). -/
def minimalRequest : Request := request 5 0 [] [] none

/-- A request with an identifier, a status and a timestamp. -/
def fullRequest : Request := request 5 0 identA nameXfail (some (1, 64))

/-- An ENC that waits for the sink. -/
def waiting (answers : List SinkAnswer) : State :=
  { idleWith fullRequest answers with
    busy := true
    work := ((stateOf (exec .enc (idleWith fullRequest []))).getD State.reset).work
    sinkWrites := [((stateOf (exec .enc (idleWith fullRequest []))).getD State.reset).work.pkt] }

/-- An idle machine with one host action. -/
def hostAsks (a : HostAction) (answers : List SinkAnswer) : State :=
  { State.reset with host := [a], sinkAnswers := answers, sinkWrites := [packetA], sinkLog := [packetA] }

theorem test_witness_DecodeInvertsEncode :
    (Instr.wireVli4 1073741823).wf = true ∧ (Instr.wireVli1 63).wf = true ∧ (Instr.wireFlags true true 7#3).wf = true := by
  decide

theorem test_witness_EncodeInvertsDecode :
    decode (.wire .integer) [0x40#8, 0x05#8, 0xAA#8] = .ok (.wireVli2 5, [0xAA#8]) := by rfl

theorem test_witness_StepRunsDecodedInstruction :
    (hostAsks (.request fullRequest) [.ok]).busy = false ∧
    (hostAsks (.request fullRequest) [.ok]).host = .request fullRequest :: [] ∧
    decode .request [requestByte fullRequest.op] = .ok (.enc, []) ∧
    (hostAsks (.wire .flags [0x2A#8, 0x07#8]) []).host = .wire .flags [0x2A#8, 0x07#8] :: [] ∧
    decode (.wire .flags) [0x2A#8, 0x07#8] = .ok (.wireFlags true true 7#3, []) :=
  ⟨rfl, rfl, rfl, rfl, rfl⟩

theorem test_witness_StepOnUndecodableBytes :
    (hostAsks (.wire .integer [0x40#8]) []).busy = false ∧
    (hostAsks (.wire .integer [0x40#8]) []).host = .wire .integer [0x40#8] :: [] ∧
    decode (.wire .integer) [0x40#8] = .error .truncated ∧
    (hostAsks (.wire .signature [0xB2#8]) []).host = .wire .signature [0xB2#8] :: [] ∧
    decode (.wire .signature) [0xB2#8] = .error .notSignature ∧
    decode (.wire .flags) [0x38#8, 0x03#8] = .error .flagsFixedBits ∧ decode (.wire .flags) [0x20#8] = .error .truncated :=
  ⟨rfl, rfl, rfl, rfl, rfl, rfl, rfl⟩

theorem test_witness_PlacedWordRuns :
    decodeTableWord 8 5 = some .enc ∧ decodeTableWord 8 8 = some (.wireVli1 8) ∧
    decodeTableWord 16 0x7FFF = some (.wireVli2 16383) := by decide

theorem test_witness_OpCodeSelectsOperation :
    ∀ op : BitVec 3, (hostAsks (.request { minimalRequest with op := op }) []).busy = false ∧
      (hostAsks (.request { minimalRequest with op := op }) []).host = .request { minimalRequest with op := op } :: [] ∧
      ({ minimalRequest with op := op } : Request).op = op :=
  fun _ => ⟨rfl, rfl, rfl⟩

/-- Every size class at both ends; the same states serve the overflow at its least and greatest value. -/
theorem test_witness_VliEncodesEachSizeClass :
    ∀ n ∈ [0, 63, 64, 16383, 16384, 4194303, 4194304, 1073741823, 1073741824, 4294967295],
      (idleWith (request 0 n [] [] none) []).busy = false ∧ (idleWith (request 0 n [] [] none) []).req.n.toNat = n := by
  decide

theorem test_witness_IntegerTooLargeExactlyOnOverflow :
    ∀ n ∈ [1073741823, 1073741824, 4294967295],
      (idleWith (request 0 n [] [] none) []).busy = false ∧ (idleWith (request 0 n [] [] none) []).req.n.toNat = n ∧
      ({ minimalRequest with ibufLen := BitVec.ofNat 32 n } : Request).ibufLen.toNat = n ∧
      ({ minimalRequest with ibufLen := BitVec.ofNat 32 n } : Request).tsValid = false ∧
      memRead ({ minimalRequest with ibufLen := BitVec.ofNat 32 n } : Request).status 0 0 = some [] := by
  decide

theorem test_witness_VliIsMinimal :
    (0 < 1073741824 ∧ 1 ≤ 1 ∧ 1 ≤ 4) ∧ (1073741823 < 1073741824 ∧ 1 ≤ 4 ∧ 4 ≤ 4) := by decide

theorem test_witness_VliSizeTable :
    (∀ n ∈ [0, 63, 64, 16383, 16384, 4194303, 4194304, 1073741823], n ≤ 1073741823) ∧ 63 ≤ 64 ∧ 64 ≤ 1073741823 := by
  decide

theorem test_witness_VliRoundTrip : 0 ≤ 1073741823 ∧ 1073741823 ≤ 1073741823 := by decide

/-- Both ends of every size class. -/
theorem test_witness_VliAssemblesValueBits :
    (∀ n ∈ [0, 63, 64, 16383, 16384, 4194303, 4194304, 1073741823], n < 1073741824) ∧ 63 < 64 ∧ 64 ≤ 64 ∧
    16383 < 16384 ∧ 16384 ≤ 16384 ∧ 4194303 < 4194304 ∧ 4194304 ≤ 4194304 := by decide

theorem test_witness_VliDecoderOnAnyInput :
    vliDec [0x05#8] = some (5, 1) ∧ vliDec [0x80#8, 0x00#8, 0x05#8] = some (5, 3) ∧ vliDec [0x40#8] = none := by decide

theorem test_witness_FlgBuildsFlags :
    (idleWith fullRequest []).busy = false ∧ fullRequest.HasStatus nameXfail ∧
    (idleWith minimalRequest []).busy = false ∧ minimalRequest.HasStatus [] := ⟨rfl, by unfold Request.HasStatus; decide, rfl, rfl⟩

theorem test_witness_StatusCodeTable :
    nameBogus ≠ asciiBytes ['u', 'n', 'd', 'e', 'f', 'i', 'n', 'e', 'd'] ∧ nameBogus ≠ asciiBytes ['e', 'x', 'i', 's', 't', 's'] ∧
    nameBogus ≠ asciiBytes ['i', 'n', 'p', 'r', 'o', 'g', 'r', 'e', 's', 's'] ∧ nameBogus ≠ nameSuccess ∧
    nameBogus ≠ asciiBytes ['u', 'x', 's', 'u', 'c', 'c', 'e', 's', 's'] ∧ nameBogus ≠ asciiBytes ['s', 'k', 'i', 'p'] ∧
    nameBogus ≠ asciiBytes ['f', 'a', 'i', 'l'] ∧ nameBogus ≠ nameXfail := by decide

theorem test_witness_built : ∃ w, buildPacket fullRequest = .ok w := ⟨_, rfl⟩

theorem test_witness_minimal_built : ∃ w, buildPacket minimalRequest = .ok w := ⟨_, rfl⟩

theorem test_witness_PresenceBitsFollowFields :
    (∃ w, buildPacket fullRequest = .ok w) ∧
    Returns (exec .flg (idleWith fullRequest [])) (idleWith fullRequest []) [0x2A#8, 0x07#8] :=
  ⟨⟨_, rfl⟩, _, rfl, by decide⟩

theorem test_witness_FlagsFieldValues :
    (fullRequest.ibufLen = 0 ↔ (longRequest 2 (some (0, 0))).ibufLen = 0) ∧
    fullRequest.tsValid = (longRequest 2 (some (0, 0))).tsValid ∧
    ({ fullRequest with statusLen := 0 } : Request).HasStatus [] ∧ (longRequest 2 (some (0, 0))).HasStatus [] ∧
    Returns (exec .flg (idleWith { fullRequest with statusLen := 0 } []))
      (idleWith { fullRequest with statusLen := 0 } []) [0x2A#8, 0x00#8] :=
  ⟨by decide, rfl, rfl, rfl, _, rfl, by decide⟩

theorem test_witness_TseBuildsTimestamp :
    (idleWith minimalRequest []).busy = false ∧ minimalRequest.tsValid = false ∧
    (idleWith fullRequest []).busy = false ∧ fullRequest.tsValid = true ∧ fullRequest.tsNsec.toNat < 1000000000 ∧
    (request 2 0 [] [] (some (4294967295, 999999999))).tsNsec.toNat = 999999999 := by decide

/-- Every row of the table of R129 at its ends. -/
theorem test_witness_TimestampLengths :
    ∀ p ∈ [(0, 5), (63, 5), (64, 6), (16383, 6), (16384, 7), (4194303, 7), (4194304, 8), (999999999, 8)],
      (responseOf (exec .tse (idleWith (request 2 0 [] [] (some (0, p.1))) []))).map (fun r => (r.kind, r.res.length)) =
        some (.ok, p.2) := by decide

theorem test_witness_TimestampRoundTrip :
    fullRequest.tsValid = true ∧
    Returns (exec .tse (idleWith fullRequest [])) (idleWith fullRequest [])
      [0x00#8, 0x00#8, 0x00#8, 0x01#8, 0x40#8, 0x40#8] := ⟨rfl, _, rfl, by decide⟩

/-- Both ends of every row of R134 and R135, with every byte written. -/
theorem test_witness_IdeBuildsIdentifier :
    ∀ n ∈ [1, 63, 64, 16383, 16384, 4194303, 4194304, 1073741823],
      (idleWith (longRequest n none) []).busy = false ∧ (longRequest n none).ibufLen.toNat = n ∧ 0 < n ∧
      n < 1073741824 ∧ (longRequest n none).HasBuffer (List.replicate n 0x61#8) := by
  intro n hn
  have h : 0 < n ∧ n < 1073741824 := by
    revert n
    decide
  exact ⟨rfl, longRequest_ibufLen (by omega) none, h.1, h.2, longRequest_hasBuffer (by omega) none⟩

/-- IDE returns on an identifier of any such length, so the rows of R135 and R136 are met at their ends. -/
theorem test_witness_IdentifierLengths_row (n : Nat) (h0 : 0 < n) (h : n < 1073741824) :
    Returns (exec .ide (idleWith (longRequest n none) [])) (idleWith (longRequest n none) [])
      (vliBytes n ++ List.replicate n 0x61#8) := by
  have hb := longRequest_hasBuffer (n := n) (by omega) none
  unfold Request.HasBuffer at hb
  rw [longRequest_ibufLen (by omega)] at hb
  have hid : idBytes (longRequest n none).ibuf (longRequest n none).ibufLen.toNat =
      .ok (vliBytes n ++ List.replicate n 0x61#8) := by
    rw [longRequest_ibufLen (by omega)]
    rcases idBytes_cases (longRequest n none).ibuf n with h' | h' | h' | ⟨bs, _, _, hm, h'⟩
    · omega
    · omega
    · rw [hb] at h'
      cases h'.2.2.1
    · rw [hb] at hm
      obtain rfl : List.replicate n 0x61#8 = bs := by simpa using hm
      exact h'
  refine ⟨_, ?_, deliver_responses _ _⟩
  show unitOperation (idleWith (longRequest n none) [])
    (idBytes (longRequest n none).ibuf (longRequest n none).ibufLen.toNat) = _
  rw [hid]
  exact unitOperation_ok rfl _

theorem test_witness_IdentifierRoundTrip :
    fullRequest.ibufLen ≠ 0 ∧
    Returns (exec .ide (idleWith fullRequest [])) (idleWith fullRequest []) [0x01#8, 0x41#8] :=
  ⟨by decide, _, rfl, by decide⟩

theorem test_witness_CrcDeliversChecksum :
    (idleWith fullRequest []).busy = false ∧ fullRequest.HasBuffer identA ∧ minimalRequest.HasBuffer [] := ⟨rfl, rfl, rfl⟩

theorem test_witness_EncSendsOnePacket :
    (idleWith fullRequest [.ok]).busy = false ∧ fullRequest.InContract ∧ fullRequest.HasStatus nameXfail ∧
    fullRequest.HasBuffer identA ∧ (idleWith fullRequest [.ok]).sinkAnswers = .ok :: [] ∧
    (idleWith fullRequest [.fail 7]).sinkAnswers = .fail 7 :: [] ∧ 1 + 2 + 6 + 2 + 4 ≤ 4194300 :=
  ⟨rfl, fun _ => by decide, by unfold Request.HasStatus; decide, rfl, rfl, rfl, by decide⟩

theorem test_witness_EncWaitsForTheSink :
    (∃ w, buildPacket (idleWith fullRequest []).req = .ok w) ∧ (idleWith fullRequest []).busy = false ∧
    (waiting []).busy = true ∧ (waiting []).sinkAnswers = [] ∧ (waiting [.ok]).sinkAnswers = .ok :: [] ∧
    (waiting [.fail 7]).sinkAnswers = .fail 7 :: [] := ⟨⟨_, rfl⟩, rfl, rfl, rfl, rfl, rfl⟩

theorem test_witness_EveryOperationEnds :
    Instr.enc.slot = .request ∧ (∃ t, exec .enc (idleWith fullRequest []) = .next t) ∧
    Instr.vli.slot = .request ∧ (∃ t, exec .vli (idleWith fullRequest []) = .next t) :=
  ⟨rfl, ⟨_, rfl⟩, rfl, _, rfl⟩

/-- Each range of R173 at its ends, without a timestamp. -/
theorem test_witness_EncOutcomeByIdentifierLength :
    (∀ n ∈ [0, 4194290, 4194291, 1073741823], (longRequest n none).ibufLen.toNat = n ∧
      (longRequest n none).HasBuffer (List.replicate n 0x61#8) ∧ (longRequest n none).HasStatus [] ∧
      (longRequest n none).InContract ∧ (longRequest n none).timestampLength = 0) ∧
    ∀ n ∈ [1073741824, 4294967295], (longRequest n none).ibufLen.toNat = n ∧ (longRequest n none).HasStatus [] ∧
      (longRequest n none).InContract := by
  constructor
  · intro n hn
    have h : n < 4294967296 := by
      revert n
      decide
    exact ⟨longRequest_ibufLen h none, longRequest_hasBuffer h none, rfl, (fun h => by cases h), rfl⟩
  · intro n hn
    have h : n < 4294967296 := by
      revert n
      decide
    exact ⟨longRequest_ibufLen h none, rfl, fun h => by cases h⟩

theorem test_witness_ThresholdsAreExact :
    ∀ b ∈ [7, 62, 63, 16381, 16382, 4194300, 4194301], 7 ≤ b := by decide

theorem test_witness_LengthsThatNeverOccur :
    (∃ w, buildPacket minimalRequest = .ok w) ∧
    ∀ len ∈ [8, 10, 63, 65, 16383, 16385, 4194303], 8 ≤ len ∧ len ≤ 4194303 ∧ len ≠ 9 ∧ len ≠ 64 ∧ len ≠ 16384 :=
  ⟨⟨_, rfl⟩, by decide⟩

theorem test_witness_PacketInvariants :
    (∃ w, buildPacket minimalRequest = .ok w) ∧ ∃ w, buildPacket fullRequest = .ok w := ⟨⟨_, rfl⟩, _, rfl⟩

theorem test_witness_PacketBufferHoldsPacket :
    ∃ w, buildPacket fullRequest = .ok w ∧ w.len ≤ 19 := ⟨_, rfl, by decide⟩

theorem test_witness_PacketParsesBack :
    fullRequest.HasStatus nameXfail ∧ fullRequest.HasBuffer identA ∧ ∃ w, buildPacket fullRequest = .ok w :=
  ⟨by unfold Request.HasStatus; decide, rfl, _, rfl⟩

theorem test_witness_MinimalPacket :
    minimalRequest.ibufLen = 0 ∧ minimalRequest.tsValid = false ∧ minimalRequest.HasStatus [] ∧ statusCode [] = 0#3 ∧
    (request 5 0 [] nameBogus none).HasStatus nameBogus ∧ statusCode nameBogus = 0#3 :=
  ⟨rfl, rfl, rfl, rfl, by unfold Request.HasStatus; decide, by decide⟩

/-- The greatest identifier with a length field of one, two and three bytes, and the least of each next class. -/
theorem test_witness_GreatestIdentifier :
    (∀ p ∈ [(54, 63), (55, 65), (16372, 16383), (16373, 16385), (16384, 16397), (4194290, 4194303)],
      ∃ w, buildPacket (longRequest p.1 none) = .ok w ∧ w.len = p.2) ∧
    (longRequest 4194291 none).ibufLen.toNat = 4194291 ∧
    (longRequest 4194291 none).HasBuffer (List.replicate 4194291 0x61#8) ∧ (longRequest 4194291 none).HasStatus [] ∧
    (longRequest 4194291 none).InContract := by
  refine ⟨?_, longRequest_ibufLen (by omega) none, longRequest_hasBuffer (by omega) none, rfl, fun h => by cases h⟩
  intro p hp
  have h : 0 < p.1 ∧ p.1 < 1073741824 ∧ finalLength (7 + ((vliBytes p.1).length + p.1)) = some p.2 := by
    revert p
    decide
  exact longRequest_built h.1 h.2.1 h.2.2

theorem test_witness_SameEventSamePacket :
    SameEvent minimalRequest (request 0 9 [] nameBogus none) ∧ (∃ w, buildPacket minimalRequest = .ok w) ∧
    SameEvent (request 5 0 [] [] (some (0, 1000000000))) (request 5 0 [] [] (some (0, 1000000000))) ∧
    buildPacket (request 5 0 [] [] (some (0, 1000000000))) = .error (.refused .nanosecondsOutOfContract) :=
  ⟨⟨rfl, rfl, ⟨[], nameBogus, rfl, by unfold Request.HasStatus; decide, by decide⟩, rfl, rfl, rfl⟩, ⟨_, rfl⟩,
    ⟨rfl, rfl, ⟨[], [], rfl, rfl, rfl⟩, rfl, rfl, rfl⟩, rfl⟩

theorem test_witness_PacketFromUnitOperations :
    (idleWith fullRequest []).busy = false ∧ ∃ w, buildPacket (idleWith fullRequest []).req = .ok w := ⟨rfl, _, rfl⟩

theorem test_witness_StreamCutsIntoPackets :
    ∃ w w', List.Forall₂ (fun r w => buildPacket r = .ok w) [minimalRequest, fullRequest] [w, w'] :=
  ⟨_, _, .cons rfl (.cons rfl .nil)⟩

theorem test_witness_OutcomeMatrix :
    (idleWith fullRequest [.ok]).busy = false ∧ fullRequest.HasStatus nameXfail ∧ fullRequest.InContract ∧
    fullRequest.HasBuffer identA ∧ (∃ w, buildPacket fullRequest = .ok w) ∧
    (longRequest 4194291 none).HasBuffer (List.replicate 4194291 0x61#8) ∧
    4194301 ≤ 7 + (longRequest 4194291 none).timestampLength + (vliSize 4194291 + 4194291) :=
  ⟨rfl, by unfold Request.HasStatus; decide, fun _ => by decide, rfl, ⟨_, rfl⟩, longRequest_hasBuffer (by omega) none,
    by decide⟩

theorem test_witness_ErrorLeavesNothing :
    (∃ t r, exec .vli (idleWith (request 0 1073741824 [] [] none) []) = .next t ∧
      t.responses = (idleWith (request 0 1073741824 [] [] none) []).responses ++ [r] ∧ r.kind = .integerTooLarge) ∧
    ∃ t r, exec .enc (idleWith fullRequest [.fail 7]) = .next t ∧
      t.responses = (idleWith fullRequest [.fail 7]).responses ++ [r] ∧ r.kind = .sinkWriteFailure :=
  ⟨⟨_, _, rfl, rfl, rfl⟩, ⟨_, _, rfl, rfl, rfl⟩⟩

theorem test_witness_NothingCarriesOver :
    (idleWith fullRequest [.ok]).busy = false ∧
    ({ hostAsks .reset [.ok] with req := fullRequest } : State).busy = false ∧
    (idleWith fullRequest [.ok]).req = ({ hostAsks .reset [.ok] with req := fullRequest } : State).req ∧
    (idleWith fullRequest [.ok]).sinkAnswers = ({ hostAsks .reset [.ok] with req := fullRequest } : State).sinkAnswers ∧
    ∃ t, exec .enc (idleWith fullRequest [.ok]) = .next t := ⟨rfl, rfl, rfl, rfl, _, rfl⟩

theorem test_witness_UnreadRegistersIgnored :
    AgreeOnOperands .tse minimalRequest { minimalRequest with n := 5, tsSec := 9, tsNsec := 1000000000 } ∧
    (∃ t, exec .tse (idleWith minimalRequest []) = .next t) ∧
    AgreeOnOperands .enc (request 5 0 [] [] (some (0, 1000000000))) (request 0 9 [] [] (some (0, 1000000000))) ∧
    exec .enc (idleWith (request 5 0 [] [] (some (0, 1000000000))) []) = .refused .nanosecondsOutOfContract :=
  ⟨⟨rfl, fun h => by cases h⟩, ⟨_, rfl⟩, ⟨rfl, rfl, rfl, rfl, rfl, fun _ => ⟨rfl, rfl⟩⟩, rfl⟩

theorem test_witness_IllFormedRequestsRefused :
    (request 5 0 [] [] (some (0, 1000000000))).tsValid = true ∧
    1000000000 ≤ (request 5 0 [] [] (some (0, 1000000000))).tsNsec.toNat ∧
    memRead ({ minimalRequest with statusLen := 1 } : Request).status 0 1 = none ∧
    memRead ({ minimalRequest with ibufLen := 1 } : Request).ibuf 0 1 = none ∧
    ({ minimalRequest with ibufLen := 1 } : Request).ibufLen.toNat < 1073741824 ∧
    ({ minimalRequest with ibufLen := 1 } : Request).HasStatus [] ∧
    Instr.enc ∈ [Instr.vli, .flg, .tse, .ide, .crc, .enc] ∧ (waiting []).busy = true :=
  ⟨rfl, by decide, rfl, rfl, by decide, rfl, by decide, rfl⟩

theorem test_witness_OnlyEncWritesTheSink :
    (∃ t, exec .enc (idleWith fullRequest [.ok]) = .next t) ∧ (∃ t, exec .crc (idleWith fullRequest [.ok]) = .next t) ∧
    ∃ t, step (hostAsks (.request fullRequest) [.ok]) = .next t := ⟨⟨_, rfl⟩, ⟨_, rfl⟩, _, rfl⟩

theorem test_witness_BlockAndReaderAreApart :
    (∃ t, exec .ide (idleWith fullRequest []) = .next t) ∧ ∃ t, exec (.wireVli2 64) (waiting []) = .next t :=
  ⟨⟨_, rfl⟩, _, rfl⟩

theorem test_witness_WireIntegersRead :
    63 < 64 ∧ 16383 < 16384 ∧ 4194303 < 4194304 ∧ 1073741823 < 1073741824 := by decide

theorem test_witness_ResetState :
    (hostAsks .reset []).busy = false ∧ (hostAsks .reset []).host = .reset :: [] := ⟨rfl, rfl⟩

theorem packetA_valid : ValidPacket packetA := ⟨_, test_parse_packetA, rfl⟩

/-- The invariants hold, and a step is taken, in an idle state with a history and in a waiting one. -/
theorem test_witness_invariants_idle :
    CanonicalMemory (hostAsks (.request minimalRequest) [.ok]) ∧ WorkFollowsBusy (hostAsks (.request minimalRequest) [.ok]) ∧
    SentPacketsValid (hostAsks (.request minimalRequest) [.ok]) ∧
    LogFollowsWrites (hostAsks (.request minimalRequest) [.ok]) ∧
    ResponsesShaped (hostAsks (.request minimalRequest) [.ok]) ∧
    ∃ t, step (hostAsks (.request minimalRequest) [.ok]) = .next t := by
  refine ⟨⟨⟨List.Pairwise.nil, List.Pairwise.nil⟩, fun r hr => ?_⟩, ⟨fun _ => rfl, fun h => (by cases h)⟩, fun p hp => ?_,
    ⟨fun _ => List.Sublist.refl _, fun h => (by cases h)⟩, fun r hr => (by cases hr), _, rfl⟩
  · obtain rfl : r = minimalRequest := by simpa [hostAsks] using hr
    exact ⟨List.Pairwise.nil, List.Pairwise.nil⟩
  · obtain rfl : p = packetA := by simpa [hostAsks] using hp
    exact packetA_valid

theorem test_witness_invariants_waiting :
    WorkFollowsBusy (waiting [.ok]) ∧ LogFollowsWrites (waiting [.ok]) ∧ ∃ t, step (waiting [.ok]) = .next t :=
  ⟨⟨fun h => (by cases h), fun _ => ⟨rfl, [], rfl⟩⟩, ⟨fun h => (by cases h), fun _ => ⟨[], rfl, List.Sublist.refl _⟩⟩, _, rfl⟩

theorem test_witness_CanonicalMemoryKept :
    CanonicalMemory (hostAsks (.request minimalRequest) [.ok]) ∧ ∃ t, step (hostAsks (.request minimalRequest) [.ok]) = .next t :=
  ⟨test_witness_invariants_idle.1, _, rfl⟩

theorem test_witness_WorkFollowsBusyKept :
    WorkFollowsBusy (waiting [.ok]) ∧ (∃ t, step (waiting [.ok]) = .next t) ∧
    WorkFollowsBusy (hostAsks (.request minimalRequest) [.ok]) :=
  ⟨test_witness_invariants_waiting.1, ⟨_, rfl⟩, test_witness_invariants_idle.2.1⟩

theorem test_witness_SentPacketsValidKept :
    SentPacketsValid (hostAsks (.request minimalRequest) [.ok]) ∧ ∃ t, step (hostAsks (.request minimalRequest) [.ok]) = .next t :=
  ⟨test_witness_invariants_idle.2.2.1, _, rfl⟩

theorem test_witness_LogFollowsWritesKept :
    LogFollowsWrites (waiting [.ok]) ∧ (∃ t, step (waiting [.ok]) = .next t) ∧
    LogFollowsWrites (hostAsks (.request minimalRequest) [.ok]) :=
  ⟨test_witness_invariants_waiting.2.1, ⟨_, rfl⟩, test_witness_invariants_idle.2.2.2.1⟩

theorem test_witness_ResponsesShapedKept :
    ResponsesShaped (hostAsks (.request minimalRequest) [.ok]) ∧ ∃ t, step (hostAsks (.request minimalRequest) [.ok]) = .next t :=
  ⟨test_witness_invariants_idle.2.2.2.2.1, _, rfl⟩

end Sys2Proof.Tests
end

/-! PROOFS. The state family (10_state.md). First what an instruction and a step can do, in the terms of the shared
operations; then the statements: the frame of every instruction, the absence of memory between operations, the
invariants of every step. -/

namespace Sys2Proof.Machine

/-! ### What an instruction can do -/

/-- The four forms of an instruction: an operation that answers with bytes computed from the request registers, ENC, a
reserved code, and a wire pattern, which acts on the reader alone. -/
theorem exec_forms (i : Instr) :
    (i.slot = .request ∧ i ≠ .enc ∧
        ∃ result : Request → Except Stop Bytes, ∀ s, exec i s = unitOperation s (result s.req)) ∨
      i = .enc ∨
      (i.slot = .request ∧ ∃ op, ∀ s, exec i s = .refused (.reservedOperation op)) ∨
      (i.slot ≠ .request ∧ ∃ read : Reader → Reader, ∀ s, exec i s = .next { s with reader := read s.reader }) := by
  cases i with
  | vli => exact .inl ⟨rfl, nofun, fun r => vliChecked r.n.toNat, fun _ => rfl⟩
  | flg => exact .inl ⟨rfl, nofun, requestFlags, fun _ => rfl⟩
  | tse => exact .inl ⟨rfl, nofun, requestTimestamp, fun _ => rfl⟩
  | ide => exact .inl ⟨rfl, nofun, fun r => idBytes r.ibuf r.ibufLen.toNat, fun _ => rfl⟩
  | crc => exact .inl ⟨rfl, nofun, requestChecksum, fun _ => rfl⟩
  | enc => exact .inr (.inl rfl)
  | reservedOp6 => exact .inr (.inr (.inl ⟨rfl, _, fun _ => rfl⟩))
  | reservedOp7 => exact .inr (.inr (.inl ⟨rfl, _, fun _ => rfl⟩))
  | wireVli1 v => exact .inr (.inr (.inr ⟨nofun, fun rd => { rd with integer := _ }, fun _ => rfl⟩))
  | wireVli2 v => exact .inr (.inr (.inr ⟨nofun, fun rd => { rd with integer := _ }, fun _ => rfl⟩))
  | wireVli3 v => exact .inr (.inr (.inr ⟨nofun, fun rd => { rd with integer := _ }, fun _ => rfl⟩))
  | wireVli4 v => exact .inr (.inr (.inr ⟨nofun, fun rd => { rd with integer := _ }, fun _ => rfl⟩))
  | wireSignature => exact .inr (.inr (.inr ⟨nofun, fun rd => { rd with signature := true }, fun _ => rfl⟩))
  | wireFlags p q c =>
    exact .inr (.inr (.inr ⟨nofun,
      fun rd => { rd with version := _, idPresent := _, tsPresent := _, status := _ }, fun _ => rfl⟩))

/-- Everything an instruction that answers a next state can have done. -/
theorem exec_next {i : Instr} {s t : State} (h : exec i s = .next t) :
    (i.slot = .request ∧ s.busy = false ∧ ∃ res, t = deliver res s) ∨
      (i.slot = .request ∧ s.busy = false ∧ ∃ k, t = raiseError k s) ∨
      (i = .enc ∧ s.busy = false ∧ ∃ w, buildPacket s.req = .ok w ∧ t = sinkWrite w s) ∨
      (i.slot ≠ .request ∧ t = { s with reader := t.reader }) := by
  rcases exec_forms i with ⟨hslot, -, result, hexec⟩ | rfl | ⟨-, op, hexec⟩ | ⟨hslot, read, hexec⟩
  · rw [hexec] at h
    obtain ⟨hidle, ⟨res, -, ht⟩ | ⟨k, -, ht⟩⟩ := unitOperation_next h
    · exact .inl ⟨hslot, hidle, res, ht⟩
    · exact .inr (.inl ⟨hslot, hidle, k, ht⟩)
  · obtain ⟨hidle, ⟨w, hw, ht⟩ | ⟨k, -, ht⟩⟩ := execEnc_next h
    · exact .inr (.inr (.inl ⟨rfl, hidle, w, hw, ht⟩))
    · exact .inr (.inl ⟨rfl, hidle, k, ht⟩)
  · rw [hexec] at h
    cases h
  · rw [hexec] at h
    cases h
    exact .inr (.inr (.inr ⟨hslot, rfl⟩))

/-- A write with no answer at hand leaves the operation in progress (R217, R218). -/
theorem sinkWrite_unanswered (w : Work) {s : State} (h : s.sinkAnswers = []) :
    sinkWrite w s = { s with busy := true, work := w, sinkWrites := s.sinkWrites ++ [w.pkt] } :=
  awaitSink_unanswered (s := { s with busy := true, work := w, sinkWrites := _ }) h

/-- A write the sink accepts at once. -/
theorem sinkWrite_accepted (w : Work) {s : State} {rest : List SinkAnswer} (h : s.sinkAnswers = .ok :: rest) :
    sinkWrite w s =
      { s with
        busy := false, work := Work.cleared, sinkWrites := s.sinkWrites ++ [w.pkt], sinkAnswers := rest,
        sinkLog := s.sinkLog ++ [w.pkt],
        responses := s.responses ++ [{ kind := .ok, res := [], sinkErr := none }] } :=
  awaitSink_accepted (s := { s with busy := true, work := w, sinkWrites := _ }) h

/-- A write the sink rejects at once: the packet is written all the same. -/
theorem sinkWrite_rejected (w : Work) {s : State} {e : Config.SinkError} {rest : List SinkAnswer}
    (h : s.sinkAnswers = .fail e :: rest) :
    sinkWrite w s =
      { s with
        busy := false, work := Work.cleared, sinkWrites := s.sinkWrites ++ [w.pkt], sinkAnswers := rest,
        responses := s.responses ++ [{ kind := .sinkWriteFailure, res := [], sinkErr := some e }] } :=
  awaitSink_rejected (s := { s with busy := true, work := w, sinkWrites := _ }) h

/-- On an idle machine `step` runs what the fetch found. -/
theorem step_of_fetch_instr {s s' : State} {i : Instr} (hidle : s.busy = false) (hf : fetch s = .instr i s') :
    step s = exec i s' := by
  simp [step, hidle, hf]

/-! ### Invariants of every step -/

/-- What makes a predicate an invariant of `step`: it is kept by each elementary thing a step is made of. The write of a
packet and the sink's answer to it are two of these, also where one step does both. -/
structure StepInvariant (P : State → Prop) : Prop where
  /-- The reference reader reads something. -/
  onReader : ∀ s rd, P s → P { s with reader := rd }
  /-- An action is taken off the host's list. -/
  onTake : ∀ s a rest, s.busy = false → s.host = a :: rest → P s → P { s with host := rest }
  /-- A request is taken off the host's list and written to the request registers. -/
  onRequest : ∀ s r rest, s.busy = false → s.host = .request r :: rest → P s → P { s with host := rest, req := r }
  /-- The idle block is reset (R210). -/
  onReset : ∀ s, s.busy = false → P s → P (resetBlock s)
  /-- An operation ends with its result. -/
  onDeliver : ∀ s res, s.busy = false → P s → P (deliver res s)
  /-- An operation ends with an error before any write (R186). -/
  onRaise : ∀ s k, s.busy = false → P s → P (raiseError k s)
  /-- ENC writes the packet of its request and waits (R44, R218). -/
  onWrite : ∀ s w, s.busy = false → buildPacket s.req = .ok w → P s →
    P { s with busy := true, work := w, sinkWrites := s.sinkWrites ++ [w.pkt] }
  /-- The outstanding write meets the sink's answer, if there is one. -/
  onAnswer : ∀ s, s.busy = true → P s → P (awaitSink s)

theorem StepInvariant.exec_kept {P : State → Prop} (inv : StepInvariant P) {i : Instr} {s t : State}
    (h : exec i s = .next t) (hs : P s) : P t := by
  rcases exec_next h with ⟨-, hidle, res, rfl⟩ | ⟨-, hidle, k, rfl⟩ | ⟨-, hidle, w, hw, rfl⟩ | ⟨-, ht⟩
  · exact inv.onDeliver s res hidle hs
  · exact inv.onRaise s k hidle hs
  · exact inv.onAnswer _ rfl (inv.onWrite s w hidle hw hs)
  · rw [ht]
    exact inv.onReader s _ hs

theorem StepInvariant.step_kept {P : State → Prop} (inv : StepInvariant P) {s t : State}
    (hs : P s) (h : step s = .next t) : P t := by
  rcases step_next h with ⟨hbusy, rfl⟩ | ⟨-, -, rfl⟩ | ⟨rest, hidle, hhost, rfl⟩ | ⟨r, rest, hidle, hhost, hexec⟩ |
    ⟨f, bytes, rest, i, after, hidle, hhost, -, hexec⟩ | ⟨f, bytes, rest, hidle, hhost, hread⟩
  · exact inv.onAnswer s hbusy hs
  · exact hs
  · exact inv.onReset _ hidle (inv.onTake s _ rest hidle hhost hs)
  · exact inv.exec_kept hexec (inv.onRequest s r rest hidle hhost hs)
  · exact inv.exec_kept hexec (inv.onTake s _ rest hidle hhost hs)
  · rw [readUnmatched_some hread]
    exact inv.onReader _ _ (inv.onTake s _ rest hidle hhost hs)

/-! ### The working registers follow `BUSY` (R20, R175, R218) -/

theorem workFollowsBusy_of_idle {s : State} (hidle : s.busy = false) (hwork : s.work = Work.cleared) :
    WorkFollowsBusy s :=
  ⟨fun _ => hwork, fun hbusy => by simp [hidle] at hbusy⟩

/-- Whatever the sink answers ends the operation with cleared working registers; while it does not, nothing changes. -/
theorem workFollowsBusy_awaitSink {s : State} (hs : WorkFollowsBusy s) : WorkFollowsBusy (awaitSink s) := by
  rcases awaitSink_cases s with ⟨-, hend⟩ | ⟨rest, -, hend⟩ | ⟨e, rest, -, hend⟩ <;> rw [hend]
  · exact hs
  · exact workFollowsBusy_of_idle rfl rfl
  · exact workFollowsBusy_of_idle rfl rfl

theorem workFollowsBusy_stepInvariant : StepInvariant WorkFollowsBusy where
  onReader _ _ hs := hs
  onTake _ _ _ _ _ hs := hs
  onRequest _ _ _ hidle _ hs := workFollowsBusy_of_idle hidle (hs.1 hidle)
  onReset _ _ _ := workFollowsBusy_of_idle rfl rfl
  onDeliver _ _ _ _ := workFollowsBusy_of_idle rfl rfl
  onRaise _ _ _ _ := workFollowsBusy_of_idle rfl rfl
  onWrite s _ _ hw _ := ⟨nofun, fun _ => ⟨hw, s.sinkWrites, rfl⟩⟩
  onAnswer _ _ hs := workFollowsBusy_awaitSink hs

/-- Settles O57: the elementary changes of a step all keep the relation of `BUSY` and the working registers. -/
theorem workFollowsBusyKept : Obligations.WorkFollowsBusyKept :=
  fun _ _ hs h => workFollowsBusy_stepInvariant.step_kept hs h

/-! ### Canonical buffers (R32) -/

theorem canonicalMemory_of_eq {s t : State} (hs : CanonicalMemory s) (hreq : t.req = s.req) (hhost : t.host = s.host) :
    CanonicalMemory t := by
  rwa [CanonicalMemory, hreq, hhost]

theorem canonicalMemory_stepInvariant : StepInvariant CanonicalMemory where
  onReader _ _ hs := hs
  onTake _ _ _ _ hhost hs := ⟨hs.1, fun r hr => hs.2 r (hhost ▸ .tail _ hr)⟩
  onRequest _ r _ _ hhost hs := ⟨hs.2 r (hhost ▸ .head _), fun q hq => hs.2 q (hhost ▸ .tail _ hq)⟩
  onReset _ _ hs := ⟨reset_memory_wf, hs.2⟩
  onDeliver _ _ _ hs := hs
  onRaise _ _ _ hs := hs
  onWrite _ _ _ _ hs := hs
  onAnswer s _ hs := canonicalMemory_of_eq hs (awaitSink_req s) (awaitSink_host s)

/-- Settles O56: a step writes the request registers only with a request of the host's list or with the reset values. -/
theorem canonicalMemoryKept : Obligations.CanonicalMemoryKept :=
  fun _ _ hs h => canonicalMemory_stepInvariant.step_kept hs h

/-! ### The form of the responses (R27) -/

theorem responseShape_ok (res : Bytes) : ResponseShape { kind := .ok, res := res, sinkErr := none } := by
  simp [ResponseShape]

theorem responseShape_errorResponse (k : ErrorKind) : ResponseShape (errorResponse k) := by
  cases k <;> simp [ResponseShape, errorResponse]

theorem responsesShaped_append {s t : State} {r : Response} (hs : ResponsesShaped s) (hr : ResponseShape r)
    (ht : t.responses = s.responses ++ [r]) : ResponsesShaped t := by
  intro q hq
  rw [ht, List.mem_append, List.mem_singleton] at hq
  rcases hq with hq | rfl
  · exact hs q hq
  · exact hr

theorem responsesShaped_awaitSink {s : State} (hs : ResponsesShaped s) : ResponsesShaped (awaitSink s) := by
  rcases awaitSink_cases s with ⟨-, hend⟩ | ⟨rest, -, hend⟩ | ⟨e, rest, -, hend⟩ <;> rw [hend]
  · exact hs
  · exact responsesShaped_append hs (responseShape_ok []) rfl
  · exact responsesShaped_append hs (responseShape_errorResponse (.sinkWriteFailure e)) rfl

theorem responsesShaped_stepInvariant : StepInvariant ResponsesShaped where
  onReader _ _ hs := hs
  onTake _ _ _ _ _ hs := hs
  onRequest _ _ _ _ _ hs := hs
  onReset _ _ hs := hs
  onDeliver _ res _ hs := responsesShaped_append hs (responseShape_ok res) rfl
  onRaise _ k _ hs := responsesShaped_append hs (responseShape_errorResponse k) rfl
  onWrite _ _ _ _ hs := hs
  onAnswer _ _ hs := responsesShaped_awaitSink hs

/-- Settles O60: every response a step adds is an OK with no failure value or the response of an error kind. -/
theorem responsesShapedKept : Obligations.ResponsesShapedKept :=
  fun _ _ hs h => responsesShaped_stepInvariant.step_kept hs h

/-! ### Block and reader are apart (R6, R21) -/

/-- Settles O51, over the four things an instruction can have done. -/
theorem blockAndReaderAreApart : Obligations.BlockAndReaderAreApart := by
  intro i s t h
  rcases exec_next h with ⟨hslot, -, res, rfl⟩ | ⟨hslot, -, k, rfl⟩ | ⟨rfl, -, w, -, rfl⟩ | ⟨hslot, ht⟩
  · exact ⟨rfl, rfl, fun _ => rfl, absurd hslot⟩
  · exact ⟨rfl, rfl, fun _ => rfl, absurd hslot⟩
  · exact ⟨sinkWrite_req w s, sinkWrite_host w s, fun _ => sinkWrite_reader w s, absurd rfl⟩
  · exact ⟨by rw [ht], by rw [ht], (absurd · hslot), fun _ => ht⟩

/-! ### Nothing carries over from one operation to the next (R20, R187) -/

/-- Going from `s` to `t` and going from `u` to `v` add the same responses and the same sink writes, leave the same
`BUSY`, and leave nothing in the working registers where the operation has ended. -/
def SameAnswers (s t u v : State) : Prop :=
  ∃ rs ws, t.responses = s.responses ++ rs ∧ v.responses = u.responses ++ rs ∧
    t.sinkWrites = s.sinkWrites ++ ws ∧ v.sinkWrites = u.sinkWrites ++ ws ∧ t.busy = v.busy ∧
    (t.busy = false → t.work = Work.cleared ∧ v.work = Work.cleared)

theorem sameAnswers_respond (r : Response) (s u : State) : SameAnswers s (respond r s) u (respond r u) :=
  ⟨[r], [], by simp⟩

/-- The one write of ENC: the sink's next answer, the same for both, decides how the operation goes on. -/
theorem sameAnswers_sinkWrite (w : Work) {s u : State} (hans : s.sinkAnswers = u.sinkAnswers) :
    SameAnswers s (sinkWrite w s) u (sinkWrite w u) := by
  rcases hu : u.sinkAnswers with _ | ⟨_ | e, rest⟩ <;> rw [hu] at hans
  · rw [sinkWrite_unanswered w hans, sinkWrite_unanswered w hu]
    exact ⟨[], [w.pkt], by simp⟩
  · rw [sinkWrite_accepted w hans, sinkWrite_accepted w hu]
    exact ⟨_, [w.pkt], rfl, rfl, rfl, rfl, rfl, fun _ => ⟨rfl, rfl⟩⟩
  · rw [sinkWrite_rejected w hans, sinkWrite_rejected w hu]
    exact ⟨_, [w.pkt], rfl, rfl, rfl, rfl, rfl, fun _ => ⟨rfl, rfl⟩⟩

/-- An operation whose result is computed from the request answers alike on two idle states. -/
theorem sameAnswers_unitOperation {s t u : State} {result : Except Stop Bytes} (hidle : u.busy = false)
    (h : unitOperation s result = .next t) : ∃ v, unitOperation u result = .next v ∧ SameAnswers s t u v := by
  obtain ⟨-, ⟨res, rfl, rfl⟩ | ⟨k, rfl, rfl⟩⟩ := unitOperation_next h
  · exact ⟨deliver res u, unitOperation_ok hidle res, sameAnswers_respond _ s u⟩
  · exact ⟨raiseError k u, unitOperation_raised hidle k, sameAnswers_respond _ s u⟩

/-- ENC answers alike on two idle states with the same request and the same sink answers to come. -/
theorem sameAnswers_execEnc {s t u : State} (hidle : u.busy = false) (hreq : s.req = u.req)
    (hans : s.sinkAnswers = u.sinkAnswers) (h : execEnc s = .next t) :
    ∃ v, execEnc u = .next v ∧ SameAnswers s t u v := by
  obtain ⟨-, ⟨w, hw, rfl⟩ | ⟨k, hk, rfl⟩⟩ := execEnc_next h
  · exact ⟨sinkWrite w u, execEnc_ok hidle (hreq ▸ hw), sameAnswers_sinkWrite w hans⟩
  · exact ⟨raiseError k u, execEnc_raised hidle (hreq ▸ hk), sameAnswers_respond _ s u⟩

/-- Settles O46, over the forms of an instruction. -/
theorem nothingCarriesOver : Obligations.NothingCarriesOver := by
  intro i s u t hslot _ hidle hreq hans h
  have alike : ∃ v, exec i u = .next v ∧ SameAnswers s t u v := by
    rcases exec_forms i with ⟨-, -, result, hexec⟩ | rfl | ⟨-, op, hexec⟩ | ⟨hwire, -⟩
    · rw [hexec, hreq] at h
      rw [hexec]
      exact sameAnswers_unitOperation hidle h
    · exact sameAnswers_execEnc hidle hreq hans h
    · rw [hexec] at h
      cases h
    · exact absurd hslot hwire
  obtain ⟨v, hv, rs, ws, hadded⟩ := alike
  exact ⟨v, rs, ws, hv, hadded⟩

/-! ### A step runs the decoded instruction (R28, R60) -/

theorem fetch_request {s : State} {r : Request} {rest : List HostAction} {i : Instr} {after : Bytes}
    (hhost : s.host = .request r :: rest) (hd : decode .request [requestByte r.op] = .ok (i, after)) :
    fetch s = .instr i { s with req := r, host := rest } := by
  simp [fetch, hhost, fetchRequest, hd]

theorem fetch_wire {s : State} {f : WireField} {bytes : Bytes} {rest : List HostAction} {i : Instr} {after : Bytes}
    (hhost : s.host = .wire f bytes :: rest) (hd : decode (.wire f) bytes = .ok (i, after)) :
    fetch s = .instr i { s with host := rest } := by
  simp [fetch, hhost, fetchWire, hd]

/-- Settles O4, by what the fetch finds for each of the two host actions. -/
theorem stepRunsDecodedInstruction : Obligations.StepRunsDecodedInstruction :=
  ⟨fun _ _ _ _ hidle hhost hd => step_of_fetch_instr hidle (fetch_request hhost hd),
    fun _ _ _ _ _ _ hidle hhost hd => step_of_fetch_instr hidle (fetch_wire hhost hd)⟩

end Sys2Proof.Machine

/-! PROOFS. The memory family (20_memory.md). First the buffers: what a filled buffer holds, and that the writes of the
frame assembler put the packet together; then who writes the sink, and how the log of accepted packets follows the
writes. -/

namespace Sys2Proof.Machine

/-! ### A buffer filled piece by piece (R12, R32) -/

/-- Writing two byte strings end to end is writing them as one. -/
theorem memWrite_append (m : Memory) (o : Nat) (s u : Bytes) :
    memWrite m o (s ++ u) = memWrite (memWrite m o s) (o + s.length) u := by
  induction s generalizing m o with
  | nil => rfl
  | cons b s ih =>
    rw [List.cons_append, memWrite, memWrite, ih, List.length_cons, Nat.add_right_comm, Nat.add_assoc]

/-- A write at the end of a filled buffer makes its byte string longer. -/
theorem memWrite_bufferOf {s : Bytes} {o : Nat} (ho : o = s.length) (u : Bytes) :
    memWrite (bufferOf s) o u = bufferOf (s ++ u) := by
  rw [ho, bufferOf, bufferOf, memWrite_append, Nat.zero_add]

/-- A filled buffer holds its bytes at their indices and nothing elsewhere. -/
theorem memByte_bufferOf (s : Bytes) (a : Nat) : memByte (bufferOf s) a = s[a]? := by
  rw [bufferOf, memByte_memWrite]
  split
  · rfl
  · rw [memByte_nil, List.getElem?_eq_none (by omega)]

/-- A part of a filled buffer reads as that part of its bytes. -/
theorem memRead_bufferOf_middle (front s back : Bytes) :
    memRead (bufferOf (front ++ s ++ back)) front.length s.length = some s := by
  refine (memRead_eq_some_iff _ _ _ _).mpr ⟨rfl, fun j hj => ?_⟩
  rw [memByte_bufferOf, List.append_assoc, List.getElem?_append_right (by omega), Nat.add_sub_cancel_left,
    List.getElem?_append_left hj]

/-! ### The packet buffer (R46, R160, R162) -/

/-- The offsets of R46 leave no gap and no overlap, as the flags are two bytes. -/
theorem fillPacketBuffer_eq {fl : Bytes} (hfl : fl.length = 2) (lenb tsb idb crc : Bytes) :
    fillPacketBuffer fl lenb tsb idb crc = bufferOf (packetBody fl lenb tsb idb ++ crc) := by
  have hsig : memWrite [] 0 [Config.signature] = bufferOf [Config.signature] := rfl
  rw [fillPacketBuffer, hsig, memWrite_bufferOf (o := 1) rfl, memWrite_bufferOf (by simp [hfl]),
    memWrite_bufferOf (by simp [hfl]; omega), memWrite_bufferOf (by simp [hfl]; omega),
    memWrite_bufferOf (by simp [hfl]; omega), packetBody]

/-- The final length of step 3 is `BASELEN` and the bytes of the length field that holds it (R158, R165). -/
theorem finalLength_eq_add_length {b len : Nat} (h : finalLength b = some len) :
    len = b + (vliBytes len).length := by
  rcases finalLength_cases b with ⟨hb, hlen⟩ | ⟨hb, hb', hlen⟩ | ⟨hb, hb', hlen⟩ | ⟨-, hlen⟩ <;>
    rw [hlen] at h <;> cases h
  · rw [vliBytes_one (by omega), List.length_singleton]
  · rw [vliBytes_two (by omega) (by omega), beBytes_length]
  · rw [vliBytes_three (by omega) (by omega), List.length_cons, beBytes_length]

/-- What a built packet is made of: its body, the checksum from `CRC_ACC`, and as many bytes as `L` says. -/
theorem buildPacket_pkt {r : Request} {w : Work} (h : buildPacket r = .ok w) :
    w.flags.length = 2 ∧
      w.pkt = packetBody w.flags w.lenb w.tsb w.idb ++ beBytes 4 (w.crcAcc ^^^ 0xFFFFFFFF#32).toNat ∧
      w.pkt.length = w.len := by
  obtain ⟨name, idb, -, -, -, hasm⟩ := (buildPacket_ok_iff r w).mp h
  obtain ⟨len, hlen, rfl⟩ := (assemble_ok_iff _ _ _ _).mp hasm
  refine ⟨rfl, rfl, ?_⟩
  have hfield := finalLength_eq_add_length hlen
  rw [provisionalBody_length] at hfield
  simp only [List.length_append, packetBody_length, checksum_length]
  omega

/-- Settles O41: the filled buffer is the buffer of the packet, of which the length field is the part behind the
signature and the flags. -/
theorem packetBufferHoldsPacket : Obligations.PacketBufferHoldsPacket := by
  intro r w h buffer
  obtain ⟨hfl, hpkt, hlen⟩ := buildPacket_pkt h
  have hbuffer : buffer = bufferOf w.pkt := by rw [hpkt, ← fillPacketBuffer_eq hfl]
  have hparts : w.pkt = ([Config.signature] ++ w.flags) ++ w.lenb ++
      (w.tsb ++ w.idb ++ beBytes 4 (w.crcAcc ^^^ 0xFFFFFFFF#32).toNat) := by
    simp only [hpkt, packetBody, List.append_assoc]
  have hfront : ([Config.signature] ++ w.flags).length = 3 := by simp [hfl]
  refine ⟨hbuffer ▸ bufferOf_wf w.pkt, ?_, ?_, fun a ha => ?_⟩
  · rw [hbuffer, ← hlen]
    exact memRead_bufferOf w.pkt
  · rw [hbuffer, hparts, ← hfront]
    exact memRead_bufferOf_middle _ _ _
  · rw [hbuffer, memByte_bufferOf, List.getElem?_eq_none (hlen ▸ ha)]

/-! ### Who writes the sink (R44, R221) -/

/-- An instruction other than ENC leaves everything at the sink as it was. -/
theorem exec_sink_unchanged {i : Instr} {s t : State} (hne : i ≠ .enc) (h : exec i s = .next t) :
    t.sinkWrites = s.sinkWrites ∧ t.sinkLog = s.sinkLog ∧ t.sinkAnswers = s.sinkAnswers := by
  rcases exec_next h with ⟨-, -, res, rfl⟩ | ⟨-, -, k, rfl⟩ | ⟨henc, -⟩ | ⟨-, ht⟩
  · exact ⟨rfl, rfl, rfl⟩
  · exact ⟨rfl, rfl, rfl⟩
  · exact absurd henc hne
  · rw [ht]
    exact ⟨rfl, rfl, rfl⟩

/-- ENC writes its packet once, or raises its error and leaves everything at the sink as it was. -/
theorem execEnc_sink {s t : State} (h : execEnc s = .next t) :
    (∃ w, buildPacket s.req = .ok w ∧ t.sinkWrites = s.sinkWrites ++ [w.pkt]) ∨
      ∃ k, buildPacket s.req = .error (.raised k) ∧ t.sinkWrites = s.sinkWrites ∧ t.sinkLog = s.sinkLog ∧
        t.sinkAnswers = s.sinkAnswers := by
  obtain ⟨-, ⟨w, hw, rfl⟩ | ⟨k, hk, rfl⟩⟩ := execEnc_next h
  · exact .inl ⟨w, hw, sinkWrite_sinkWrites w s⟩
  · exact .inr ⟨k, hk, rfl, rfl, rfl⟩

/-- A packet field never decodes to ENC, which stands in a request only. -/
theorem decode_wire_ne_enc {f : WireField} {bytes after : Bytes} {i : Instr}
    (h : decode (.wire f) bytes = .ok (i, after)) : i ≠ .enc := by
  rintro rfl
  cases f with
  | signature =>
    simp only [decode, decodeSignature] at h
    split at h
    · cases h
    · split at h <;> cases h
  | flags =>
    simp only [decode, decodeFlags] at h
    split at h
    · cases h
    · cases h
    · split at h <;> cases h
  | integer =>
    simp only [decode, decodeInteger] at h
    split at h
    · cases h
    · split at h <;> cases h

/-- The writes a step makes: none, or the packet of an ENC that the host issued in this step. -/
theorem step_sinkWrites {s t : State} (h : step s = .next t) :
    t.sinkWrites = s.sinkWrites ∨
      ∃ r rest w, s.busy = false ∧ s.host = .request r :: rest ∧ decodeOp r.op = .enc ∧ buildPacket r = .ok w ∧
        t.sinkWrites = s.sinkWrites ++ [w.pkt] := by
  rcases step_next h with ⟨-, rfl⟩ | ⟨-, -, rfl⟩ | ⟨rest, -, -, rfl⟩ | ⟨r, rest, hidle, hhost, hexec⟩ |
    ⟨f, bytes, rest, i, after, -, -, hd, hexec⟩ | ⟨f, bytes, rest, -, -, hread⟩
  · exact .inl (awaitSink_sinkWrites s)
  · exact .inl rfl
  · exact .inl rfl
  · by_cases henc : decodeOp r.op = .enc
    · rw [henc] at hexec
      rcases execEnc_sink hexec with ⟨w, hw, hwrites⟩ | ⟨k, -, hwrites, -⟩
      · exact .inr ⟨r, rest, w, hidle, hhost, henc, hw, hwrites⟩
      · exact .inl hwrites
    · exact .inl (exec_sink_unchanged henc hexec).1
  · exact .inl (exec_sink_unchanged (decode_wire_ne_enc hd) hexec).1
  · rw [readUnmatched_some hread]
    exact .inl rfl

/-- Settles O50, by what ENC, the other instructions and a step can do at the sink. -/
theorem onlyEncWritesTheSink : Obligations.OnlyEncWritesTheSink := by
  refine ⟨fun i s t h => ⟨fun hne => exec_sink_unchanged hne h, ?_⟩, fun _ _ h => step_sinkWrites h⟩
  rintro rfl
  exact execEnc_sink h

/-! ### The log of accepted packets follows the writes (R44, R45) -/

theorem logFollowsWrites_of_idle {s : State} (hidle : s.busy = false) (hlog : s.sinkLog.Sublist s.sinkWrites) :
    LogFollowsWrites s :=
  ⟨fun _ => hlog, fun hbusy => by simp [hidle] at hbusy⟩

/-- The sink's answer moves the outstanding packet, the last one written, to the end of the log or drops it. -/
theorem logFollowsWrites_awaitSink {s : State} (hbusy : s.busy = true) (hs : LogFollowsWrites s) :
    LogFollowsWrites (awaitSink s) := by
  obtain ⟨earlier, hwrites, hlog⟩ := hs.2 hbusy
  rcases awaitSink_cases s with ⟨-, hend⟩ | ⟨rest, -, hend⟩ | ⟨e, rest, -, hend⟩ <;> rw [hend]
  · exact hs
  · refine logFollowsWrites_of_idle rfl ?_
    show (s.sinkLog ++ [s.work.pkt]).Sublist s.sinkWrites
    rw [hwrites]
    exact hlog.append_right _
  · refine logFollowsWrites_of_idle rfl ?_
    show s.sinkLog.Sublist s.sinkWrites
    rw [hwrites]
    exact hlog.trans (List.sublist_append_left _ _)

theorem logFollowsWrites_stepInvariant : StepInvariant LogFollowsWrites where
  onReader _ _ hs := hs
  onTake _ _ _ _ _ hs := hs
  onRequest _ _ _ _ _ hs := hs
  onReset _ hidle hs := logFollowsWrites_of_idle rfl (hs.1 hidle)
  onDeliver _ _ hidle hs := logFollowsWrites_of_idle rfl (hs.1 hidle)
  onRaise _ _ hidle hs := logFollowsWrites_of_idle rfl (hs.1 hidle)
  onWrite s _ hidle _ hs := ⟨nofun, fun _ => ⟨s.sinkWrites, rfl, hs.1 hidle⟩⟩
  onAnswer _ hbusy hs := logFollowsWrites_awaitSink hbusy hs

/-- Settles O59: a packet enters the writes and the log at the end only, and the log only after the writes. -/
theorem logFollowsWritesKept : Obligations.LogFollowsWritesKept :=
  fun _ _ hs h => logFollowsWrites_stepInvariant.step_kept hs h

end Sys2Proof.Machine

/-! PROOFS. The encoding family (30_encoding.md). First the encoded rows, one layer per place: the eight `OP` codes, the
flags, and the integer, whose four size classes are one family over the size code; then the statements. -/

namespace Sys2Proof.Machine

/-! ### Big-endian numbers (R11, R40, R99) -/

theorem shiftRight_eq_div_256_pow (v k : Nat) : v >>> (8 * k) = v / 256 ^ k := by
  rw [Nat.shiftRight_eq_div_pow, Nat.pow_mul]

theorem beBytes_succ (k v : Nat) : beBytes (k + 1) v = byteOf (v / 256 ^ k) :: beBytes k v := by
  rw [beBytes, shiftRight_eq_div_256_pow]

/-- Only the low `k` bytes of a number show in its `k`-byte form. -/
theorem beBytes_mul_pow_add (k a v : Nat) : beBytes k (a * 256 ^ k + v) = beBytes k v := by
  induction k generalizing a with
  | zero => rfl
  | succ k ih =>
    have hsplit : a * 256 ^ (k + 1) + v = a * 256 * 256 ^ k + v := by ring
    have hbyte : byteOf ((a * 256 * 256 ^ k + v) / 256 ^ k) = byteOf (v / 256 ^ k) := by
      rw [Nat.mul_comm (a * 256), Nat.mul_add_div (by positivity)]
      exact (byteOf_eq_iff _ _).mpr (by omega)
    rw [beBytes_succ, beBytes_succ, hsplit, hbyte, ih]

/-- Reading the `k`-byte form behind the higher bytes gives the number back. -/
theorem beFold_beBytes (k v : Nat) : beFold (v / 256 ^ k) (beBytes k v) = v := by
  induction k with
  | zero => simp [beBytes]
  | succ k ih =>
    have hnext : v / 256 ^ (k + 1) * 256 + v / 256 ^ k % 256 = v / 256 ^ k := by
      rw [pow_succ, ← Nat.div_div_eq_div_mul]
      omega
    rw [beBytes_succ, beFold_cons, byteOf_toNat, hnext, ih]

/-- The value read before a byte string stands above its bytes. -/
theorem beFold_div_pow (t : Nat) (s : Bytes) : beFold t s / 256 ^ s.length = t := by
  induction s generalizing t with
  | nil => simp
  | cons b s ih =>
    rw [beFold_cons, List.length_cons, pow_succ, ← Nat.div_div_eq_div_mul, ih]
    have := b.isLt
    omega

/-- The low bytes of the number read are the bytes it was read from. -/
theorem beBytes_beFold (t : Nat) (s : Bytes) : beBytes s.length (beFold t s) = s := by
  induction s generalizing t with
  | nil => rfl
  | cons b s ih =>
    have hbyte : byteOf (t * 256 + b.toNat) = b := by
      rw [← byteOf_of_toNat b, byteOf_eq_iff, byteOf_of_toNat]
      omega
    rw [List.length_cons, beBytes_succ, beFold_cons, beFold_div_pow, hbyte, ih]

theorem beFold_lt (t n : Nat) (s : Bytes) (ht : t < n) : beFold t s < n * 256 ^ s.length :=
  (Nat.div_lt_iff_lt_mul (by positivity)).mp ((beFold_div_pow t s).symm ▸ ht)

/-! ### The `OP` codes (R60, R73) -/

theorem decodeOp_wf (op : BitVec 3) : (decodeOp op).wf = true := by
  revert op
  decide

theorem decodeOp_slot (op : BitVec 3) : (decodeOp op).slot = .request := by
  revert op
  decide

theorem encode_decodeOp (op : BitVec 3) : encode (decodeOp op) = [requestByte op] := by
  revert op
  decide

theorem requestByte_toNat (op : BitVec 3) : (requestByte op).toNat = op.toNat := by
  simp [requestByte]
  omega

/-- A byte below 8 is an `OP` code in its low bits. -/
theorem requestByte_setWidth {b : Byte} (h : b.toNat < 8) : requestByte (b.setWidth 3) = b := by
  apply BitVec.eq_of_toNat_eq
  rw [requestByte_toNat, BitVec.toNat_setWidth]
  omega

theorem decodeRequest_requestByte (op : BitVec 3) (rest : Bytes) :
    decodeRequest (requestByte op :: rest) = .ok (decodeOp op, rest) := by
  have hlt : (requestByte op).toNat < 8 := requestByte_toNat op ▸ op.isLt
  have hop : (requestByte op).setWidth 3 = op := by simp [requestByte]
  rw [decodeRequest, if_pos hlt, hop]

/-- What the decoder accepts as a request: an `OP` code in a byte. -/
theorem decodeRequest_ok {bs rest : Bytes} {i : Instr} (h : decodeRequest bs = .ok (i, rest)) :
    ∃ op, bs = requestByte op :: rest ∧ i = decodeOp op := by
  cases bs with
  | nil => cases h
  | cons b tail =>
    rw [decodeRequest] at h
    split at h
    case isTrue hlt =>
      cases h
      exact ⟨b.setWidth 3, by rw [requestByte_setWidth hlt], rfl⟩
    case isFalse => cases h

/-! ### The signature and the flags (R64, R65) -/

theorem decodeSignature_signature (rest : Bytes) :
    decodeSignature (Config.signature :: rest) = .ok (.wireSignature, rest) := by
  rw [decodeSignature, if_pos rfl]

theorem decodeSignature_ok {bs rest : Bytes} {i : Instr} (h : decodeSignature bs = .ok (i, rest)) :
    bs = Config.signature :: rest ∧ i = .wireSignature := by
  cases bs with
  | nil => cases h
  | cons b tail =>
    rw [decodeSignature] at h
    split at h
    case isTrue hb =>
      cases h
      exact ⟨by rw [hb], rfl⟩
    case isFalse => cases h

theorem flagsPattern0_idPresent (p q : Bool) : (flagsPattern0 p q).getLsbD 3 = p := by
  revert p q
  decide

theorem flagsPattern0_tsPresent (p q : Bool) : (flagsPattern0 p q).getLsbD 1 = q := by
  revert p q
  decide

theorem flagsPattern0_version (p q : Bool) : (flagsPattern0 p q).extractLsb' 4 4 = Config.version := by
  revert p q
  decide

theorem flagsPattern0_fixedBits (p q : Bool) : flagsPattern0 p q &&& 0xF5#8 = 0x20#8 := by
  revert p q
  decide

theorem flagsPattern1_status (c : BitVec 3) : (flagsPattern1 c).setWidth 3 = c := by
  simp [flagsPattern1]

theorem flagsPattern1_fixedBits (c : BitVec 3) : flagsPattern1 c &&& 0xF8#8 = 0x00#8 := by
  revert c
  decide

/-- The two presence bits are all that the fixed bits leave open. -/
theorem eq_flagsPattern0 {f : Byte} (h : f &&& 0xF5#8 = 0x20#8) : f = flagsPattern0 (f.getLsbD 3) (f.getLsbD 1) := by
  revert f
  decide

/-- The status code is all that the fixed bits leave open. -/
theorem eq_flagsPattern1 {f : Byte} (h : f &&& 0xF8#8 = 0x00#8) : f = flagsPattern1 (f.setWidth 3) := by
  revert f
  decide

theorem decodeFlags_patterns (p q : Bool) (c : BitVec 3) (rest : Bytes) :
    decodeFlags (flagsPattern0 p q :: flagsPattern1 c :: rest) = .ok (.wireFlags p q c, rest) := by
  rw [decodeFlags, if_pos ⟨flagsPattern0_fixedBits p q, flagsPattern1_fixedBits c⟩, flagsPattern0_idPresent,
    flagsPattern0_tsPresent, flagsPattern1_status]

theorem decodeFlags_ok {bs rest : Bytes} {i : Instr} (h : decodeFlags bs = .ok (i, rest)) :
    ∃ p q c, bs = flagsPattern0 p q :: flagsPattern1 c :: rest ∧ i = .wireFlags p q c := by
  match bs with
  | [] => cases h
  | [_] => cases h
  | f0 :: f1 :: tail =>
    rw [decodeFlags] at h
    split at h
    case isTrue hbits =>
      cases h
      exact ⟨_, _, _, by rw [← eq_flagsPattern0 hbits.1, ← eq_flagsPattern1 hbits.2], rfl⟩
    case isFalse => cases h

/-! ### The integer: four size classes, one family (R62, R63) -/

/-- The wire row of a size code: the code `c` stands for `c` bytes after the first. -/
def wireInteger : Nat → Nat → Instr
  | 0, v => .wireVli1 v
  | 1, v => .wireVli2 v
  | 2, v => .wireVli3 v
  | _, v => .wireVli4 v

theorem wireInteger_slot (c v : Nat) : (wireInteger c v).slot = .wire .integer := by
  unfold wireInteger
  split <;> rfl

/-- Six value bits in the first byte and eight in each further one. -/
theorem wireInteger_wf_iff {c : Nat} (hc : c < 4) (v : Nat) : (wireInteger c v).wf = true ↔ v < 64 * 256 ^ c := by
  interval_cases c <;> simp [wireInteger, Instr.wf]

theorem encode_wireInteger {c : Nat} (hc : c < 4) (v : Nat) :
    encode (wireInteger c v) = sizeCodeByte c (v / 256 ^ c) :: beBytes c v := by
  interval_cases c <;> simp [wireInteger, encode, beBytes, Nat.shiftRight_eq_div_pow]

theorem sizeCodeByte_toNat {c t : Nat} (hc : c < 4) (ht : t < 64) : (sizeCodeByte c t).toNat = c * 64 + t :=
  byteOf_toNat_of_lt (by omega)

/-- Every byte is a size code above six value bits. -/
theorem sizeCodeByte_div_mod (b : Byte) : sizeCodeByte (b.toNat / 64) (b.toNat % 64) = b := by
  rw [sizeCodeByte, Nat.div_add_mod', byteOf_of_toNat]

/-- The decoder in terms of the size code: the value bits of the first byte, then as many bytes as the code says. -/
theorem decodeInteger_cons (b : Byte) (rest : Bytes) :
    decodeInteger (b :: rest) =
      if rest.length < b.toNat / 64 then .error .truncated
      else .ok (wireInteger (b.toNat / 64) (beFold (b.toNat % 64) (rest.take (b.toNat / 64))),
        rest.drop (b.toNat / 64)) := by
  match hcode : b.toNat / 64, rest with
  | 0, _ => simp [decodeInteger, hcode, wireInteger]
  | 1, [] => simp [decodeInteger, hcode]
  | 1, _ :: _ => simp [decodeInteger, hcode, wireInteger]
  | 2, [] => simp [decodeInteger, hcode]
  | 2, [_] => simp [decodeInteger, hcode]
  | 2, _ :: _ :: _ => simp [decodeInteger, hcode, wireInteger]
  | 3, [] => simp [decodeInteger, hcode]
  | 3, [_] => simp [decodeInteger, hcode]
  | 3, [_, _] => simp [decodeInteger, hcode]
  | 3, _ :: _ :: _ :: _ => simp [decodeInteger, hcode, wireInteger]
  | c + 4, _ => exact absurd b.isLt (by omega)

/-- The size code of an encoded integer and its top value bits stand in the first byte. -/
theorem sizeCodeByte_parts {c v : Nat} (hc : c < 4) (hv : v < 64 * 256 ^ c) :
    (sizeCodeByte c (v / 256 ^ c)).toNat / 64 = c ∧ (sizeCodeByte c (v / 256 ^ c)).toNat % 64 = v / 256 ^ c := by
  have htop : v / 256 ^ c < 64 := (Nat.div_lt_iff_lt_mul (by positivity)).mpr hv
  rw [sizeCodeByte_toNat hc htop]
  generalize v / 256 ^ c = top at htop
  omega

theorem decodeInteger_encode {c v : Nat} (hc : c < 4) (hv : v < 64 * 256 ^ c) (rest : Bytes) :
    decodeInteger (encode (wireInteger c v) ++ rest) = .ok (wireInteger c v, rest) := by
  obtain ⟨hcode, htop⟩ := sizeCodeByte_parts hc hv
  rw [encode_wireInteger hc, List.cons_append, decodeInteger_cons, hcode, htop, if_neg (by simp),
    List.take_left' (beBytes_length c v), List.drop_left' (beBytes_length c v), beFold_beBytes]

/-- What the decoder accepts as an integer: a size code, and the value of the bytes it announces. -/
theorem decodeInteger_ok {bs rest : Bytes} {i : Instr} (h : decodeInteger bs = .ok (i, rest)) :
    ∃ c v, c < 4 ∧ v < 64 * 256 ^ c ∧ i = wireInteger c v ∧ bs = encode (wireInteger c v) ++ rest := by
  cases bs with
  | nil => cases h
  | cons b tail =>
    rw [decodeInteger_cons] at h
    split at h
    case isTrue => cases h
    case isFalse hlen =>
      cases h
      have hc : b.toNat / 64 < 4 := by
        have := b.isLt
        omega
      have htake : (tail.take (b.toNat / 64)).length = b.toNat / 64 := by
        rw [List.length_take]
        omega
      have hlt := beFold_lt (b.toNat % 64) 64 (tail.take (b.toNat / 64)) (by omega)
      have hdiv := beFold_div_pow (b.toNat % 64) (tail.take (b.toNat / 64))
      have hbytes := beBytes_beFold (b.toNat % 64) (tail.take (b.toNat / 64))
      rw [htake] at hlt hdiv hbytes
      refine ⟨_, _, hc, hlt, rfl, ?_⟩
      rw [encode_wireInteger hc, hdiv, hbytes, sizeCodeByte_div_mod, List.cons_append, List.take_append_drop]

/-! ### Decoding and encoding are inverse -/

/-- Settles O1, over the rows: an `OP` code, a size class of the integer, the signature, the flags. -/
theorem decodeInvertsEncode : Obligations.DecodeInvertsEncode := by
  intro i rest hwf
  cases i with
  | vli => exact decodeRequest_requestByte 0#3 rest
  | flg => exact decodeRequest_requestByte 1#3 rest
  | tse => exact decodeRequest_requestByte 2#3 rest
  | ide => exact decodeRequest_requestByte 3#3 rest
  | crc => exact decodeRequest_requestByte 4#3 rest
  | enc => exact decodeRequest_requestByte 5#3 rest
  | reservedOp6 => exact decodeRequest_requestByte 6#3 rest
  | reservedOp7 => exact decodeRequest_requestByte 7#3 rest
  | wireVli1 v => exact decodeInteger_encode (c := 0) (by decide) ((wireInteger_wf_iff (by decide) v).mp hwf) rest
  | wireVli2 v => exact decodeInteger_encode (c := 1) (by decide) ((wireInteger_wf_iff (by decide) v).mp hwf) rest
  | wireVli3 v => exact decodeInteger_encode (c := 2) (by decide) ((wireInteger_wf_iff (by decide) v).mp hwf) rest
  | wireVli4 v => exact decodeInteger_encode (c := 3) (by decide) ((wireInteger_wf_iff (by decide) v).mp hwf) rest
  | wireSignature => exact decodeSignature_signature rest
  | wireFlags p q c => exact decodeFlags_patterns p q c rest

/-- Settles O2, over the places. -/
theorem encodeInvertsDecode : Obligations.EncodeInvertsDecode := by
  intro place bs i rest h
  match place with
  | .request =>
    obtain ⟨op, rfl, rfl⟩ := decodeRequest_ok h
    exact ⟨decodeOp_wf op, decodeOp_slot op, by rw [encode_decodeOp, List.singleton_append]⟩
  | .wire .signature =>
    obtain ⟨rfl, rfl⟩ := decodeSignature_ok h
    exact ⟨rfl, rfl, rfl⟩
  | .wire .flags =>
    obtain ⟨p, q, c, rfl, rfl⟩ := decodeFlags_ok h
    exact ⟨rfl, rfl, rfl⟩
  | .wire .integer =>
    obtain ⟨c, v, hc, hv, rfl, hbs⟩ := decodeInteger_ok h
    exact ⟨(wireInteger_wf_iff hc v).mpr hv, wireInteger_slot c v, hbs⟩

/-- Settles O3: the decoder evaluates on each of the ten byte strings. -/
theorem specWordsDecode : Obligations.SpecWordsDecode :=
  ⟨rfl, rfl, rfl, rfl, rfl, rfl, rfl, rfl, rfl, rfl⟩


/-! ### The encoder emits the wire patterns (R63, R91 to R95) -/

/-- The wire pattern as one big-endian number: the size code above the value bits. -/
theorem encode_wireInteger_eq_beBytes {c v : Nat} (hc : c < 4) (hv : v < 64 * 256 ^ c) :
    encode (wireInteger c v) = beBytes (c + 1) (v ||| c <<< (8 * c + 6)) := by
  have hpow : 2 ^ (8 * c + 6) = 64 * 256 ^ c := by
    rw [pow_add, pow_mul]
    ring
  have hsum : v ||| c <<< (8 * c + 6) = c * 64 * 256 ^ c + v := by
    rw [Nat.or_comm, ← Nat.shiftLeft_add_eq_or_of_lt (hpow ▸ hv), Nat.shiftLeft_eq, hpow, ← Nat.mul_assoc]
  have htop : (c * 64 * 256 ^ c + v) / 256 ^ c = c * 64 + v / 256 ^ c := by
    rw [Nat.mul_comm (c * 64), Nat.mul_add_div (by positivity)]
  rw [encode_wireInteger hc, hsum, beBytes_succ, htop, beBytes_mul_pow_add, sizeCodeByte]

theorem vliBytes_eq_wireVli1 {n : Nat} (h : n < 64) : vliBytes n = encode (.wireVli1 n) := by
  rw [vliBytes_one h, encode, sizeCodeByte, Nat.zero_mul, Nat.zero_add]

theorem vliBytes_eq_wireVli2 {n : Nat} (h : 64 ≤ n) (h' : n < 16384) : vliBytes n = encode (.wireVli2 n) := by
  rw [vliBytes_two h h']
  exact (encode_wireInteger_eq_beBytes (c := 1) (by decide) h').symm

/-- Here the block sets the size code in the first byte alone (R94), not in the whole number. -/
theorem vliBytes_eq_wireVli3 {n : Nat} (h : 16384 ≤ n) (h' : n < 4194304) : vliBytes n = encode (.wireVli3 n) := by
  have hfirst : n >>> 16 ||| 0x80 = 2 * 64 + n / 65536 := by
    rw [Nat.shiftRight_eq_div_pow, Nat.or_comm]
    exact (Nat.two_pow_add_eq_or_of_lt (i := 7) (by omega) 1).symm
  have hlow : n &&& 0xFFFF = n % 65536 := Nat.and_two_pow_sub_one_eq_mod n 16
  have hbytes : beBytes 2 (n % 65536) = beBytes 2 n := by
    rw [← beBytes_mul_pow_add 2 (n / 65536) (n % 65536)]
    exact congrArg (beBytes 2) (Nat.div_add_mod' n 65536)
  rw [vliBytes_three h h', hfirst, hlow, hbytes]
  exact (encode_wireInteger (c := 2) (by decide) n).symm

theorem vliBytes_eq_wireVli4 {n : Nat} (h : 4194304 ≤ n) (h' : n < 1073741824) :
    vliBytes n = encode (.wireVli4 n) := by
  rw [vliBytes_four h]
  exact (encode_wireInteger_eq_beBytes (c := 3) (by decide) h').symm

/-- Every number of the encoding has a size class, whose wire row the block emits. -/
theorem vliBytes_eq_wireInteger {n : Nat} (h : n < 1073741824) :
    ∃ c, c < 4 ∧ vliSize n = c + 1 ∧ n < 64 * 256 ^ c ∧ vliBytes n = encode (wireInteger c n) := by
  rcases Nat.lt_or_ge n 64 with h1 | h1
  · exact ⟨0, by decide, if_pos (by omega), h1, vliBytes_eq_wireVli1 h1⟩
  rcases Nat.lt_or_ge n 16384 with h2 | h2
  · exact ⟨1, by decide, by rw [vliSize, if_neg (by omega), if_pos (by omega)], h2, vliBytes_eq_wireVli2 h1 h2⟩
  rcases Nat.lt_or_ge n 4194304 with h3 | h3
  · exact ⟨2, by decide, by rw [vliSize, if_neg (by omega), if_neg (by omega), if_pos (by omega)], h3,
      vliBytes_eq_wireVli3 h2 h3⟩
  · exact ⟨3, by decide, by rw [vliSize, if_neg (by omega), if_neg (by omega), if_neg (by omega)], h,
      vliBytes_eq_wireVli4 h3 h⟩

/-- Settles O14: the bytes are the wire row of the size class, which is the big-endian number under its size code. -/
theorem vliAssemblesValueBits : Obligations.VliAssemblesValueBits := by
  intro n h
  refine ⟨?_, vliBytes_eq_wireVli1, vliBytes_eq_wireVli2, vliBytes_eq_wireVli3, fun h' => vliBytes_eq_wireVli4 h' h⟩
  obtain ⟨c, hc, hsize, hn, hbytes⟩ := vliBytes_eq_wireInteger h
  have hshift : 8 * (c + 1) - 2 = 8 * c + 6 := by omega
  rw [hbytes, hsize, Nat.add_sub_cancel, hshift, encode_wireInteger_eq_beBytes hc hn]

/-! ### The reference reader on the wire rows (R99, R171) -/

theorem vliDec_encode {c v : Nat} (hc : c < 4) (hv : v < 64 * 256 ^ c) (rest : Bytes) :
    vliDec (encode (wireInteger c v) ++ rest) = some (v, c + 1) := by
  obtain ⟨hcode, htop⟩ := sizeCodeByte_parts hc hv
  rw [encode_wireInteger hc, List.cons_append, vliDec_cons, Nat.shiftRight_eq_div_pow,
    Nat.and_two_pow_sub_one_eq_mod _ 6, hcode, htop, if_neg (by simp), List.take_left' (beBytes_length c v),
    beFold_beBytes]

/-- An integer of any size class: the reader gets its value and its size. -/
theorem exec_wireInteger (s : State) {c v : Nat} (hc : c < 4) (hv : v < 64 * 256 ^ c) :
    exec (wireInteger c v) s = .next { s with reader := { s.reader with integer := some (v, c + 1) } } := by
  have hread : exec (wireInteger c v) s = .next (readInteger (encode (wireInteger c v)) s) := by
    unfold wireInteger
    split <;> rfl
  rw [hread, readInteger, ← List.append_nil (encode _), vliDec_encode hc hv]

/-- Settles O52, one size class each. -/
theorem wireIntegersRead : Obligations.WireIntegersRead := fun s _ =>
  ⟨fun hv => exec_wireInteger s (c := 0) (by decide) hv, fun hv => exec_wireInteger s (c := 1) (by decide) hv,
    fun hv => exec_wireInteger s (c := 2) (by decide) hv, fun hv => exec_wireInteger s (c := 3) (by decide) hv⟩

/-- The fields the reader takes from the flags are those the pattern was made of. -/
theorem readFlags_patterns (p q : Bool) (c : BitVec 3) (s : State) :
    readFlags (flagsPattern0 p q) (flagsPattern1 c) s =
      { s with reader := { s.reader with
          version := Config.version, idPresent := p, tsPresent := q, status := c } } := by
  rw [readFlags, flagsPattern0_version, flagsPattern0_idPresent, flagsPattern0_tsPresent, flagsPattern1_status]

/-- Settles O53. -/
theorem wireSignatureAndFlagsRead : Obligations.WireSignatureAndFlagsRead :=
  fun s p q c => ⟨rfl, congrArg Host.Outcome.next (readFlags_patterns p q c s)⟩

/-! ### The step on an `OP` code and on a placed word (R28, R60, R73) -/

/-- On an idle machine a request runs as the operation of its `OP` code. -/
theorem step_request {s : State} {r : Request} {rest : List HostAction} (hidle : s.busy = false)
    (hhost : s.host = .request r :: rest) : step s = exec (decodeOp r.op) { s with req := r, host := rest } :=
  step_of_fetch_instr hidle (fetch_request hhost (decodeRequest_requestByte r.op []))

/-- Settles O7: the table of R60, read off `decodeOp`. -/
theorem opCodeSelectsOperation : Obligations.OpCodeSelectsOperation := by
  intro s r rest hidle hhost
  have hstep : ∀ {op}, r.op = op → step s = exec (decodeOp op) { s with req := r, host := rest } :=
    fun hop => hop ▸ step_request hidle hhost
  exact ⟨hstep, hstep, hstep, hstep, hstep, hstep, hstep, hstep⟩

/-- Settles O48: neither meaning looks at the state. -/
theorem reservedOpsRefused : Obligations.ReservedOpsRefused := fun _ => ⟨rfl, rfl⟩

/-- A word in the place of a request is the byte of its `OP` code, unless it has no bits at all. -/
theorem tableBytes_request {nbits w : Nat} (hplace : tableSlot nbits w = .request) :
    tableBytes nbits w = [] ∨ tableBytes nbits w = [requestByte (BitVec.ofNat 3 w)] := by
  have hsmall : nbits ≤ 8 ∧ w < 8 := by
    unfold tableSlot at hplace
    split_ifs at hplace with hbits hw
    exact ⟨hbits, hw⟩
  obtain ⟨hbits, hw⟩ := hsmall
  have hbyte : byteOf w = requestByte (BitVec.ofNat 3 w) := by
    apply BitVec.eq_of_toNat_eq
    rw [requestByte_toNat, byteOf_toNat, BitVec.toNat_ofNat]
    omega
  rcases Nat.eq_zero_or_pos nbits with rfl | hpos
  · exact .inl rfl
  · have hone : (nbits + 7) / 8 = 1 := by omega
    exact .inr (by rw [tableBytes, hone, ← hbyte]; rfl)

/-- A word in the place of a request that decodes at all decodes to the operation of its `OP` code. -/
theorem decodeTableWord_request {nbits w : Nat} {i : Instr} (hplace : tableSlot nbits w = .request)
    (h : decodeTableWord nbits w = some i) : i = decodeOp (BitVec.ofNat 3 w) := by
  rw [decodeTableWord, hplace] at h
  rcases tableBytes_request hplace with hbytes | hbytes
  · rw [hbytes] at h
    cases h
  · rw [hbytes, decode, decodeRequest_requestByte] at h
    exact (Option.some.inj h).symm

/-- A word in the place of a packet field decodes as its bytes do there. -/
theorem decodeTableWord_wire {nbits w : Nat} {f : WireField} {i : Instr} (hplace : tableSlot nbits w = .wire f)
    (h : decodeTableWord nbits w = some i) : ∃ after, decode (.wire f) (tableBytes nbits w) = .ok (i, after) := by
  rw [decodeTableWord, hplace] at h
  split at h
  next heq =>
    cases h
    exact ⟨_, heq⟩
  next => cases h

/-- Settles O6, by the place of the word. -/
theorem placedWordRuns : Obligations.PlacedWordRuns := by
  intro s nbits w i h
  have hidle := withFetchWord_busy s nbits w
  have hhost := withFetchWord_host s nbits w
  cases hplace : tableSlot nbits w with
  | request =>
    obtain rfl := decodeTableWord_request hplace h
    simp only [wordAction, hplace] at hhost
    rw [step_request hidle hhost, if_pos (decodeOp_slot _)]
    rfl
  | wire f =>
    obtain ⟨after, hd⟩ := decodeTableWord_wire hplace h
    obtain ⟨-, hslot, -⟩ := encodeInvertsDecode _ _ _ _ hd
    simp only [wordAction, hplace] at hhost
    rw [step_of_fetch_instr hidle (fetch_wire hhost hd), if_neg (by simp [hslot])]
    rfl

/-! ### The registers an operation does not read (R61) -/

/-- The outcome with the request registers replaced where there is a next state. -/
def outcomeWithRequest (q : Request) : Outcome → Outcome
  | .next t => .next { t with req := q }
  | .fault r => .fault r
  | .refused r => .refused r

theorem whenIdle_withRequest (q : Request) (s : State) (run : Outcome) :
    whenIdle { s with req := q } (outcomeWithRequest q run) = outcomeWithRequest q (whenIdle s run) := by
  rcases Bool.eq_false_or_eq_true s.busy with hb | hb
  · rw [whenIdle_busy hb, whenIdle_busy (s := { s with req := q }) hb, outcomeWithRequest]
  · rw [whenIdle_idle hb, whenIdle_idle (s := { s with req := q }) hb]

/-- An operation sees the request registers through its result alone. -/
theorem unitOperation_withRequest (q : Request) (s : State) (result : Except Stop Bytes) :
    unitOperation { s with req := q } result = outcomeWithRequest q (unitOperation s result) := by
  rcases result with (k | r) | res
  · exact whenIdle_withRequest q s (.next (raiseError k s))
  · exact whenIdle_withRequest q s (.refused r)
  · exact whenIdle_withRequest q s (.next (deliver res s))

theorem sinkWrite_withRequest (q : Request) (w : Work) (s : State) :
    sinkWrite w { s with req := q } = { sinkWrite w s with req := q } := by
  rcases awaitSink_cases s with ⟨hans, -⟩ | ⟨rest, hans, -⟩ | ⟨e, rest, hans, -⟩
  · rw [sinkWrite_unanswered w hans, sinkWrite_unanswered w (s := { s with req := q }) hans]
  · rw [sinkWrite_accepted w hans, sinkWrite_accepted w (s := { s with req := q }) hans]
  · rw [sinkWrite_rejected w hans, sinkWrite_rejected w (s := { s with req := q }) hans]

/-- ENC sees the request registers through the packet built from them alone. -/
theorem execEnc_withRequest {q : Request} {s : State} (hpacket : buildPacket s.req = buildPacket q) :
    execEnc { s with req := q } = outcomeWithRequest q (execEnc s) := by
  rw [execEnc, execEnc, ← whenIdle_withRequest, ← hpacket]
  rcases buildPacket s.req with (k | r) | w
  · rfl
  · rfl
  · simp only [sinkWrite_withRequest, outcomeWithRequest]

theorem requestFlags_congr {r q : Request} (hlen : r.ibufLen = q.ibufLen) (hts : r.tsValid = q.tsValid)
    (hstatus : r.status = q.status) (hstatusLen : r.statusLen = q.statusLen) : requestFlags r = requestFlags q := by
  simp only [requestFlags, statusName, idPresent, hlen, hts, hstatus, hstatusLen]

theorem requestChecksum_congr {r q : Request} (hbuf : r.ibuf = q.ibuf) (hlen : r.ibufLen = q.ibufLen) :
    requestChecksum r = requestChecksum q := by
  simp only [requestChecksum, message, hbuf, hlen]

/-- Without a timestamp there are no timestamp bytes, whatever the seconds and nanoseconds hold (R127, R128). -/
theorem requestTimestamp_absent {r : Request} (h : r.tsValid = false) : requestTimestamp r = .ok [] := by
  simp [requestTimestamp, timestampInContract, tsBytes, h]

theorem requestTimestamp_congr {r q : Request} (hts : r.tsValid = q.tsValid)
    (hread : r.tsValid = true → r.tsSec = q.tsSec ∧ r.tsNsec = q.tsNsec) : requestTimestamp r = requestTimestamp q := by
  cases hv : r.tsValid
  · rw [requestTimestamp_absent hv, requestTimestamp_absent (hts ▸ hv)]
  · obtain ⟨hsec, hnsec⟩ := hread hv
    rw [requestTimestamp, requestTimestamp, timestampInContract, timestampInContract, hts, hsec, hnsec]

theorem buildPacket_congr {r q : Request} (h : AgreeOnOperands .enc r q) : buildPacket r = buildPacket q := by
  obtain ⟨hbuf, hlen, hstatus, hstatusLen, hts, hread⟩ := h
  rw [buildPacket, buildPacket, requestTimestamp_congr hts hread, requestFlags_congr hlen hts hstatus hstatusLen, hbuf,
    hlen]

/-- Requests that agree on what the instruction reads give the same outcome, but for the request registers. -/
theorem exec_withRequest {i : Instr} {s : State} {q : Request} (hslot : i.slot = .request)
    (h : AgreeOnOperands i s.req q) : exec i { s with req := q } = outcomeWithRequest q (exec i s) := by
  cases i with
  | vli =>
    have hresult : vliChecked s.req.n.toNat = vliChecked q.n.toNat := congrArg (fun n => vliChecked n.toNat) h
    simp only [exec, execVli, hresult, unitOperation_withRequest]
  | flg =>
    obtain ⟨hlen, hts, hstatus, hstatusLen⟩ := h
    simp only [exec, execFlg, requestFlags_congr hlen hts hstatus hstatusLen, unitOperation_withRequest]
  | tse =>
    obtain ⟨hts, hread⟩ := h
    simp only [exec, execTse, requestTimestamp_congr hts hread, unitOperation_withRequest]
  | ide =>
    obtain ⟨hbuf, hlen⟩ := h
    simp only [exec, execIde, hbuf, hlen, unitOperation_withRequest]
  | crc =>
    obtain ⟨hbuf, hlen⟩ := h
    simp only [exec, execCrc, requestChecksum_congr hbuf hlen, unitOperation_withRequest]
  | enc => exact execEnc_withRequest (buildPacket_congr h)
  | reservedOp6 => rfl
  | reservedOp7 => rfl
  | wireVli1 | wireVli2 | wireVli3 | wireVli4 | wireSignature | wireFlags => cases hslot

/-- Settles O47. -/
theorem unreadRegistersIgnored : Obligations.UnreadRegistersIgnored := by
  intro i s q hslot hagree
  have hsame := exec_withRequest hslot hagree
  exact ⟨fun t h => by rw [hsame, h, outcomeWithRequest], fun x h => by rw [hsame, h, outcomeWithRequest]⟩

/-! ### The numbers of the response kinds (R74) -/

/-- The response kind of a number. -/
def responseKind (code : BitVec 2) : ResponseKind :=
  match code.toNat with
  | 0 => .ok
  | 1 => .integerTooLarge
  | 2 => .packetTooLarge
  | _ => .sinkWriteFailure

theorem responseKind_kindCode (k : ResponseKind) : responseKind (kindCode k) = k := by
  cases k <;> rfl

/-- Settles O43: the number gives the kind back, so no two kinds share one. -/
theorem responseKindNumbers : Obligations.ResponseKindNumbers :=
  ⟨rfl, rfl, rfl, rfl, Function.LeftInverse.injective responseKind_kindCode⟩

end Sys2Proof.Machine

/-! PROOFS. The variable-length integer family (40_vli.md). First the size table and the bytes of each size class; then
the reference decoder on any input, and with it the reader's step; last who ends with IntegerTooLarge. -/

namespace Sys2Proof.Machine

/-! ### The size table (R97, R98) -/

theorem vliSize_one {n : Nat} (h : n ≤ 63) : vliSize n = 1 := if_pos h

theorem vliSize_two {n : Nat} (h : 64 ≤ n) (h' : n ≤ 16383) : vliSize n = 2 := by
  rw [vliSize, if_neg (by omega), if_pos h']

theorem vliSize_three {n : Nat} (h : 16384 ≤ n) (h' : n ≤ 4194303) : vliSize n = 3 := by
  rw [vliSize, if_neg (by omega), if_neg (by omega), if_pos h']

theorem vliSize_four {n : Nat} (h : 4194304 ≤ n) : vliSize n = 4 := by
  rw [vliSize, if_neg (by omega), if_neg (by omega), if_neg (by omega)]

/-- The `k`-byte form has `8 * k - 2` usable bits, and the size is the least `k` whose form can hold the integer. -/
theorem vliSize_le_iff {n k : Nat} (hn : n < 1073741824) (hk : 1 ≤ k) (hk' : k ≤ 4) :
    vliSize n ≤ k ↔ n < 2 ^ (8 * k - 2) := by
  unfold vliSize
  interval_cases k <;> split_ifs <;> omega

theorem vliSize_bounds (n : Nat) : 1 ≤ vliSize n ∧ vliSize n ≤ 4 := by
  unfold vliSize
  split_ifs <;> decide

theorem vliSize_mono {m n : Nat} (hmn : m ≤ n) (hn : n < 1073741824) : vliSize m ≤ vliSize n := by
  obtain ⟨hlo, hhi⟩ := vliSize_bounds n
  have hfits : n < 2 ^ (8 * vliSize n - 2) := (vliSize_le_iff hn hlo hhi).mp le_rfl
  exact (vliSize_le_iff (by omega) hlo hhi).mpr (by omega)

theorem encode_wireInteger_length {c : Nat} (hc : c < 4) (v : Nat) : (encode (wireInteger c v)).length = c + 1 := by
  rw [encode_wireInteger hc, List.length_cons, beBytes_length]

theorem vliBytes_length {n : Nat} (h : n < 1073741824) : (vliBytes n).length = vliSize n := by
  obtain ⟨c, hc, hsize, -, hbytes⟩ := vliBytes_eq_wireInteger h
  rw [hbytes, encode_wireInteger_length hc, hsize]

/-- The top two bits of the first byte give the size. -/
theorem vliBytes_eq_cons {n : Nat} (h : n < 1073741824) :
    ∃ first rest, vliBytes n = first :: rest ∧ first.toNat / 64 + 1 = vliSize n := by
  obtain ⟨c, hc, hsize, hn, hbytes⟩ := vliBytes_eq_wireInteger h
  obtain ⟨hcode, -⟩ := sizeCodeByte_parts hc hn
  exact ⟨_, _, hbytes.trans (encode_wireInteger hc n), by rw [hcode, hsize]⟩

/-- Settles O10: the number of bytes is the size, and the size is the least that fits. -/
theorem vliIsMinimal : Obligations.VliIsMinimal := by
  intro n k hn hk hk'
  rw [vliBytes_length hn, vliSize_le_iff hn hk hk']

/-- Settles O11: the size of each row, and the range of the first byte from its size code. -/
theorem vliSizeTable : Obligations.VliSizeTable := by
  refine ⟨fun n hn => ⟨vliBytes_length (by omega), ?_⟩, fun m n hmn hn => vliSize_mono hmn (by omega)⟩
  obtain ⟨first, rest, hbytes, hcode⟩ := vliBytes_eq_cons (n := n) (by omega)
  refine ⟨first, rest, hbytes, by rwa [Nat.shiftRight_eq_div_pow], ?_, ?_, ?_, ?_⟩
  · intro h
    have hsize := vliSize_one h
    omega
  · intro h h'
    have hsize := vliSize_two h h'
    omega
  · intro h h'
    have hsize := vliSize_three h h'
    omega
  · intro h
    have hsize := vliSize_four h
    omega

/-! ### The bytes of each size class (R92 to R95) -/

/-- A size code ORed in above the value bits is added to the value (R93 to R95). -/
theorem or_mul_two_pow_eq_add {n i : Nat} (h : n < 2 ^ i) (code : Nat) : n ||| 2 ^ i * code = n + 2 ^ i * code := by
  rw [Nat.or_comm, ← Nat.two_pow_add_eq_or_of_lt h, Nat.add_comm]

theorem sizeCodeByte_eq_or {top : Nat} (h : top < 64) (code : Nat) :
    sizeCodeByte code top = byteOf (64 * code ||| top) := by
  rw [sizeCodeByte, Nat.add_comm, Nat.mul_comm, Nat.or_comm]
  exact congrArg byteOf (or_mul_two_pow_eq_add (i := 6) h code).symm

theorem byteOf_and_255 (v : Nat) : byteOf (v &&& 0xFF) = byteOf v := by
  rw [byteOf_eq_iff, Nat.and_two_pow_sub_one_eq_mod v 8, Nat.mod_mod]

theorem vliBytes_two_eq {n : Nat} (h : 64 ≤ n) (h' : n < 16384) :
    vliBytes n = [byteOf (0x40 ||| (n >>> 8)), byteOf (n &&& 0xFF)] := by
  rw [vliBytes_eq_wireVli2 h h', encode, sizeCodeByte_eq_or (by omega), byteOf_and_255, Nat.shiftRight_eq_div_pow]

theorem vliBytes_three_eq {n : Nat} (h : 16384 ≤ n) (h' : n < 4194304) :
    vliBytes n = [byteOf (0x80 ||| (n >>> 16)), byteOf ((n >>> 8) &&& 0xFF), byteOf (n &&& 0xFF)] := by
  rw [vliBytes_eq_wireVli3 h h', encode, sizeCodeByte_eq_or (by omega), byteOf_and_255, byteOf_and_255,
    Nat.shiftRight_eq_div_pow, Nat.shiftRight_eq_div_pow]

theorem vliBytes_four_eq {n : Nat} (h : 4194304 ≤ n) (h' : n < 1073741824) :
    vliBytes n =
      [byteOf (0xC0 ||| (n >>> 24)), byteOf ((n >>> 16) &&& 0xFF), byteOf ((n >>> 8) &&& 0xFF),
        byteOf (n &&& 0xFF)] := by
  rw [vliBytes_eq_wireVli4 h h', encode, sizeCodeByte_eq_or (by omega), byteOf_and_255, byteOf_and_255, byteOf_and_255,
    Nat.shiftRight_eq_div_pow, Nat.shiftRight_eq_div_pow, Nat.shiftRight_eq_div_pow]

/-- VLI on an idle block delivers the encoding of `N`. -/
theorem execVli_ok {s : State} (hidle : s.busy = false) (hn : s.req.n.toNat < 1073741824) :
    execVli s = .next (deliver (vliBytes s.req.n.toNat) s) := by
  rw [execVli, vliChecked_ok hn, unitOperation_ok hidle]

/-- Settles O8: VLI delivers the encoding, whose bytes are those of the size class; the corner values evaluate. -/
theorem vliEncodesEachSizeClass : Obligations.VliEncodesEachSizeClass := by
  refine ⟨fun s hidle => ?_, rfl, rfl, rfl, rfl, rfl, rfl, rfl, rfl, rfl, rfl, rfl, rfl, rfl⟩
  have hanswers : ∀ {bytes}, s.req.n.toNat < 1073741824 → vliBytes s.req.n.toNat = bytes →
      exec .vli s = .next (deliver bytes s) := fun hn hbytes => hbytes ▸ execVli_ok hidle hn
  refine ⟨fun h => ?_, fun h h' => ⟨?_, ?_⟩, fun h h' => ⟨?_, ?_⟩, fun h h' => ⟨?_, ?_⟩⟩
  · exact hanswers (by omega) (vliBytes_one h)
  · exact or_mul_two_pow_eq_add (i := 14) (by omega) 1
  · exact hanswers (by omega) (vliBytes_two_eq h (by omega))
  · rw [Nat.shiftRight_eq_div_pow]
    omega
  · exact hanswers (by omega) (vliBytes_three_eq h (by omega))
  · exact or_mul_two_pow_eq_add (i := 30) (by omega) 3
  · exact hanswers (by omega) (vliBytes_four_eq h (by omega))

/-! ### The reference decoder (R99 to R102) -/

/-- The reference decoder has no result exactly where the bytes are no wire pattern of an integer. -/
theorem vliDec_eq_none_iff (bs : Bytes) : vliDec bs = none ↔ ∃ e, decodeInteger bs = .error e := by
  cases bs with
  | nil => simp [vliDec_nil, decodeInteger]
  | cons b rest =>
    rw [vliDec_cons, decodeInteger_cons, Nat.shiftRight_eq_div_pow]
    split <;> simp

/-- What the reference decoder reads is the wire pattern of some size class, not always the smallest. -/
theorem vliDec_eq_some {bs : Bytes} {v k : Nat} (h : vliDec bs = some (v, k)) :
    ∃ c rest, c < 4 ∧ v < 64 * 256 ^ c ∧ k = c + 1 ∧ bs = encode (wireInteger c v) ++ rest := by
  cases hd : decodeInteger bs with
  | error e =>
    rw [(vliDec_eq_none_iff bs).mpr ⟨e, hd⟩] at h
    cases h
  | ok p =>
    obtain ⟨c, w, hc, hw, -, rfl⟩ := decodeInteger_ok hd
    rw [vliDec_encode hc hw] at h
    cases h
    exact ⟨c, p.2, hc, hw, rfl, rfl⟩

/-- The largest value a size class holds is within the range of the encoder. -/
theorem lt_of_sizeClass {c v : Nat} (hc : c < 4) (hv : v < 64 * 256 ^ c) : v < 1073741824 :=
  hv.trans_le (Nat.mul_le_mul_left 64 (Nat.pow_le_pow_right (by decide) (Nat.le_of_lt_succ hc)))

/-- The encoder emits the wire pattern of a size class exactly for the integers of that size. -/
theorem vliBytes_eq_wireInteger_iff {c v : Nat} (hc : c < 4) (hv : v < 64 * 256 ^ c) :
    vliBytes v = encode (wireInteger c v) ↔ vliSize v = c + 1 := by
  have hlt := lt_of_sizeClass hc hv
  constructor
  · intro h
    rw [← vliBytes_length hlt, h, encode_wireInteger_length hc]
  · intro h
    obtain ⟨c', -, hsize, -, hbytes⟩ := vliBytes_eq_wireInteger hlt
    obtain rfl : c' = c := by omega
    exact hbytes

/-- Settles O12: the encoding is the wire pattern of its size class, which the decoder undoes. -/
theorem vliRoundTrip : Obligations.VliRoundTrip := by
  refine ⟨fun n r hn => ⟨vliChecked_ok (by omega), ?_⟩, vliChecked_raised le_rfl⟩
  obtain ⟨c, hc, hsize, hv, hbytes⟩ := vliBytes_eq_wireInteger (n := n) (by omega)
  rw [hbytes, hsize, vliDec_encode hc hv]

/-- Settles O13: what the decoder reads is a wire pattern, which is the encoding exactly in the smallest size class. -/
theorem vliDecoderOnAnyInput : Obligations.VliDecoderOnAnyInput := by
  refine ⟨rfl, rfl, fun s v k h => ?_, vliDec_nil, fun b rest => ?_⟩
  · obtain ⟨c, rest, hc, hv, rfl, rfl⟩ := vliDec_eq_some h
    rw [List.take_left' (encode_wireInteger_length hc v), vliBytes_eq_wireInteger_iff hc hv]
  · rw [vliDec_cons, List.length_cons, Nat.add_lt_add_iff_right]
    simp

/-! ### The reader's step on bytes of no wire pattern (R102, R171) -/

theorem step_wire_unmatched {s t : State} {f : WireField} {bytes : Bytes} {rest : List HostAction} {e : DecodeError}
    (hidle : s.busy = false) (hhost : s.host = .wire f bytes :: rest) (hd : decode (.wire f) bytes = .error e)
    (hread : readUnmatched f bytes { s with host := rest } = some t) : step s = .next t := by
  have hfetch : fetch s = .unmatched t := by simp [fetch, hhost, fetchWire, hd, hread]
  simp [step, hidle, hfetch]

theorem step_wire_undecodable {s : State} {f : WireField} {bytes : Bytes} {rest : List HostAction} {e : DecodeError}
    (hidle : s.busy = false) (hhost : s.host = .wire f bytes :: rest) (hd : decode (.wire f) bytes = .error e)
    (hread : readUnmatched f bytes { s with host := rest } = none) : step s = .refused (.undecodable e) := by
  have hfetch : fetch s = .undecodable e := by simp [fetch, hhost, fetchWire, hd, hread]
  simp [step, hidle, hfetch]

/-- Settles O5, by the field the bytes stand in and, for the flags, by how many there are. -/
theorem stepOnUndecodableBytes : Obligations.StepOnUndecodableBytes := by
  intro s f bytes rest e hidle hhost hd
  refine ⟨?_, ?_, ?_, ?_⟩
  · rintro rfl
    have hnone : vliDec bytes = none := (vliDec_eq_none_iff bytes).mpr ⟨e, hd⟩
    rw [step_wire_unmatched hidle hhost hd rfl, readInteger, hnone]
  · rintro f0 f1 more rfl rfl
    exact step_wire_unmatched hidle hhost hd rfl
  · rintro rfl hlen
    match bytes with
    | [] => exact step_wire_undecodable hidle hhost hd rfl
    | [_] => exact step_wire_undecodable hidle hhost hd rfl
    | _ :: _ :: more => simp at hlen
  · rintro rfl
    exact step_wire_undecodable hidle hhost hd rfl

/-! ### Which results raise IntegerTooLarge (R96, R181) -/

theorem requestTimestamp_ne_raised (r : Request) (k : ErrorKind) : requestTimestamp r ≠ .error (.raised k) := by
  rcases requestTimestamp_cases r with ⟨-, h⟩ | ⟨-, -, h⟩ <;> rw [h] <;> nofun

theorem requestFlags_ne_raised (r : Request) (k : ErrorKind) : requestFlags r ≠ .error (.raised k) :=
  fun h => nomatch requestFlags_error h

theorem requestChecksum_ne_raised (r : Request) (k : ErrorKind) : requestChecksum r ≠ .error (.raised k) := by
  rw [requestChecksum]
  split
  · nofun
  · next e he =>
    obtain rfl := readBuffer_error he
    nofun

/-- The length of the identifier is checked before any of its bytes is read (R130, R134). -/
theorem idBytes_integerTooLarge_iff (buf : Memory) (n : Nat) :
    idBytes buf n = .error (.raised .integerTooLarge) ↔ 1073741824 ≤ n := by
  rcases idBytes_cases buf n with ⟨hn, h⟩ | ⟨hn, h⟩ | ⟨-, hn, -, h⟩ | ⟨bs, -, hn, -, h⟩
  · simp only [h, reduceCtorEq, false_iff]
    omega
  · simp only [h, hn]
  · simp only [h, Except.error.injEq, reduceCtorEq, false_iff]
    omega
  · simp only [h, reduceCtorEq, false_iff]
    omega

/-- With nothing to refuse before the identifier, ENC assembles the packet from the identifier bytes or passes on their
error (R155, R172). -/
theorem buildPacket_eq_bind {r : Request} {name : Bytes} (hc : r.InContract) (hname : r.HasStatus name) :
    buildPacket r =
      (idBytes r.ibuf r.ibufLen.toNat).bind
        (assemble (flags (idPresent r) r.tsValid name) (tsBytes r.tsValid r.tsSec.toNat r.tsNsec.toNat)) := by
  have hts : requestTimestamp r = .ok (tsBytes r.tsValid r.tsSec.toNat r.tsNsec.toNat) :=
    if_pos ((timestampInContract_iff r).mpr hc)
  have hflags := (requestFlags_ok_iff r _).mpr ⟨name, hname, rfl⟩
  rw [buildPacket, hts, hflags]
  cases idBytes r.ibuf r.ibufLen.toNat <;> rfl

/-- ENC raises an error only on a request it has not refused. -/
theorem buildPacket_raised {r : Request} {k : ErrorKind} (h : buildPacket r = .error (.raised k)) :
    r.InContract ∧ ∃ name, r.HasStatus name := by
  unfold buildPacket at h
  rcases requestTimestamp_cases r with ⟨hc, hts⟩ | ⟨-, -, hts⟩
  · cases hflags : requestFlags r with
    | error e =>
      obtain rfl := requestFlags_error hflags
      simp [hts, hflags] at h
    | ok fl =>
      obtain ⟨name, hname, -⟩ := (requestFlags_ok_iff r fl).mp hflags
      exact ⟨hc, name, hname⟩
  · simp [hts] at h

/-- Of the steps of ENC only the identifier encoder raises IntegerTooLarge. -/
theorem buildPacket_integerTooLarge_iff (r : Request) :
    buildPacket r = .error (.raised .integerTooLarge) ↔
      (r.InContract ∧ ∃ name, r.HasStatus name) ∧ 1073741824 ≤ r.ibufLen.toNat := by
  rw [← idBytes_integerTooLarge_iff r.ibuf]
  constructor
  · intro h
    obtain ⟨hc, name, hname⟩ := buildPacket_raised h
    refine ⟨⟨hc, name, hname⟩, ?_⟩
    rw [buildPacket_eq_bind hc hname] at h
    cases hid : idBytes r.ibuf r.ibufLen.toNat with
    | error e =>
      rw [hid] at h
      exact congrArg Except.error (Except.error.inj h)
    | ok idb =>
      rw [hid] at h
      obtain ⟨hkind, -⟩ := assemble_error h
      cases hkind
  · rintro ⟨⟨hc, name, hname⟩, hid⟩
    rw [buildPacket_eq_bind hc hname, hid]
    rfl

/-! ### Which operations end with IntegerTooLarge (R96, R181) -/

theorem errorResponse_kind_eq_integerTooLarge {k : ErrorKind} (h : (errorResponse k).kind = .integerTooLarge) :
    k = .integerTooLarge := by
  cases k with
  | integerTooLarge => rfl
  | packetTooLarge => cases h
  | sinkWriteFailure e => cases h

/-- The error raised is the one the response names. -/
theorem raiseError_integerTooLarge {s : State} {k : ErrorKind} {res : Bytes} {e : Option Config.SinkError}
    (h : (raiseError k s).responses = s.responses ++ [{ kind := .integerTooLarge, res := res, sinkErr := e }]) :
    k = .integerTooLarge := by
  rw [raiseError_responses, List.append_cancel_left_eq, List.singleton_inj] at h
  exact errorResponse_kind_eq_integerTooLarge (h ▸ rfl)

theorem unitOperation_endsWith_integerTooLarge {s : State} {result : Except Stop Bytes}
    (h : EndsWith (unitOperation s result) s .integerTooLarge) : result = .error (.raised .integerTooLarge) := by
  obtain ⟨t, res, e, ht, hresp⟩ := h
  obtain ⟨-, ⟨bytes, -, rfl⟩ | ⟨k, hresult, rfl⟩⟩ := unitOperation_next ht
  · simp at hresp
  · rw [hresult, raiseError_integerTooLarge hresp]

/-- A packet on its way to the sink no longer meets IntegerTooLarge, whatever the sink answers. -/
theorem sinkWrite_responses_ne_integerTooLarge (w : Work) (s : State) (res : Bytes) (e : Option Config.SinkError) :
    (sinkWrite w s).responses ≠ s.responses ++ [{ kind := .integerTooLarge, res := res, sinkErr := e }] := by
  rcases hans : s.sinkAnswers with _ | ⟨_ | failure, rest⟩
  · simp [sinkWrite_unanswered w hans]
  · simp [sinkWrite_accepted w hans]
  · simp [sinkWrite_rejected w hans]

theorem execEnc_endsWith_integerTooLarge {s : State} (h : EndsWith (execEnc s) s .integerTooLarge) :
    buildPacket s.req = .error (.raised .integerTooLarge) := by
  obtain ⟨t, res, e, ht, hresp⟩ := h
  obtain ⟨-, ⟨w, -, rfl⟩ | ⟨k, hresult, rfl⟩⟩ := execEnc_next ht
  · exact absurd hresp (sinkWrite_responses_ne_integerTooLarge w s res e)
  · rw [hresult, raiseError_integerTooLarge hresp]

/-- Settles O9: an operation ends with IntegerTooLarge exactly when its result is that error. -/
theorem integerTooLargeExactlyOnOverflow : Obligations.IntegerTooLargeExactlyOnOverflow := by
  intro s hidle failed
  have hunit : ∀ {result}, result = .error (.raised .integerTooLarge) → unitOperation s result = failed :=
    fun h => h ▸ unitOperation_raised hidle .integerTooLarge
  refine ⟨fun hn => hunit (vliChecked_raised hn), fun hlen => hunit ((idBytes_integerTooLarge_iff _ _).mpr hlen),
    fun name hlen hc hname =>
      execEnc_raised hidle ((buildPacket_integerTooLarge_iff _).mpr ⟨⟨hc, name, hname⟩, hlen⟩),
    fun hn h => ?_, fun hlen => ⟨fun h => ?_, fun h => ?_⟩,
    fun h => requestTimestamp_ne_raised _ _ (unitOperation_endsWith_integerTooLarge h),
    fun h => requestFlags_ne_raised _ _ (unitOperation_endsWith_integerTooLarge h),
    fun h => requestChecksum_ne_raised _ _ (unitOperation_endsWith_integerTooLarge h)⟩
  · have hraised := unitOperation_endsWith_integerTooLarge h
    rw [vliChecked_ok hn] at hraised
    cases hraised
  · have hover := (idBytes_integerTooLarge_iff _ _).mp (unitOperation_endsWith_integerTooLarge h)
    omega
  · obtain ⟨-, hover⟩ := (buildPacket_integerTooLarge_iff _).mp (execEnc_endsWith_integerTooLarge h)
    omega

end Sys2Proof.Machine

/-! PROOFS. The flags family (41_flags.md). First the status table and the two bytes as the pattern of R64; then when
the fields behind the presence bits are there; last what FLG delivers. -/

namespace Sys2Proof.Machine

/-! ### The status code (R114, R115) -/

theorem lookupStatus_eq_zero_of_ne {table : List (Bytes × BitVec 3)} {name : Bytes}
    (h : ∀ entry ∈ table, name ≠ entry.1) : lookupStatus table name = 0#3 := by
  induction table with
  | nil => rfl
  | cons entry table ih =>
    obtain ⟨hhead, htail⟩ := List.forall_mem_cons.mp h
    rw [lookupStatus, if_neg hhead, ih htail]

/-- Settles O16: the names evaluate; any other name differs from every entry of the table. -/
theorem statusCodeTable : Obligations.StatusCodeTable := by
  refine ⟨rfl, rfl, rfl, rfl, rfl, rfl, rfl, rfl, rfl, rfl, rfl, rfl, ?_⟩
  intro name h0 h1 h2 h3 h4 h5 h6 h7
  refine lookupStatus_eq_zero_of_ne (table := statusTable) ?_
  simp only [statusTable, List.forall_mem_cons]
  exact ⟨h0, h1, h2, h3, h4, h5, h6, h7, nofun⟩

/-- Every code has a name, and the name fits the `STATUS` buffer. -/
theorem exists_name_of_statusCode (c : BitVec 3) :
    ∃ entry ∈ statusTable, statusCode entry.1 = c ∧ entry.1.length ≤ Config.smax := by
  revert c
  decide

/-! ### The two bytes and the pattern of R64 (R111, R112, R117) -/

theorem flags0_eq_flagsPattern0 (i t : Bool) : flags0 i t = flagsPattern0 i t := by
  cases i <;> cases t <;> rfl

theorem flags_eq_patterns (i t : Bool) (name : Bytes) :
    flags i t name = [flagsPattern0 i t, flagsPattern1 (statusCode name)] := by
  rw [flags, flags0_eq_flagsPattern0, flags1, flagsPattern1]

theorem flagsPatterns_inj {i t i' t' : Bool} {c c' : BitVec 3}
    (h : [flagsPattern0 i t, flagsPattern1 c] = [flagsPattern0 i' t', flagsPattern1 c']) :
    i = i' ∧ t = t' ∧ c = c' := by
  have hdecode := congrArg decodeFlags h
  rw [decodeFlags_patterns, decodeFlags_patterns] at hdecode
  cases hdecode
  exact ⟨rfl, rfl, rfl⟩

/-- The value of R117 is the two bytes read as one number; only the three bits of the code count of a name. -/
theorem flags16_eq_beNat (i t : Bool) (name : Bytes) : flags16 i t name = beNat (flags i t name) := by
  rw [flags16, flags, flags1]
  generalize statusCode name = c
  revert i t c
  decide

/-- Settles O18: the big-endian bytes of a number read from bytes are those bytes. -/
theorem flagsAsOneValue : Obligations.FlagsAsOneValue := fun i t name => by
  rw [flags16_eq_beNat]
  exact beBytes_beFold 0 (flags i t name)

/-! ### When the identifier and the timestamp are there (R113) -/

theorem idPresent_iff (r : Request) : idPresent r = true ↔ r.ibufLen ≠ 0 := by
  rw [idPresent, bne_iff_ne, ne_eq, ne_eq, BitVec.toNat_eq]
  rfl

theorem idBytes_ne_nil_iff {buf : Memory} {n : Nat} {idb : Bytes} (h : idBytes buf n = .ok idb) :
    idb ≠ [] ↔ n ≠ 0 := by
  rcases idBytes_cases buf n with ⟨hn, hid⟩ | ⟨-, hid⟩ | ⟨-, -, -, hid⟩ | ⟨bs, hn, hlt, -, hid⟩ <;>
    rw [hid] at h <;> cases h
  · simp [hn]
  · obtain ⟨first, rest, hbytes, -⟩ := vliBytes_eq_cons hlt
    simp [hbytes, hn.ne']

theorem tsBytes_ne_nil_iff (valid : Bool) (sec nsec : Nat) : tsBytes valid sec nsec ≠ [] ↔ valid = true := by
  cases valid
  · simp [tsBytes]
  · simp [tsBytes, beBytes_four]

/-- The presence bits of the flags of a request (R111, R113). -/
theorem flags_presence_bits (r : Request) (name : Bytes) :
    ∃ f0 f1, flags (idPresent r) r.tsValid name = [f0, f1] ∧ (f0.getLsbD 3 = true ↔ r.ibufLen ≠ 0) ∧
      (f0.getLsbD 1 = true ↔ r.tsValid = true) :=
  ⟨_, _, flags_eq_patterns _ _ name, by rw [flagsPattern0_idPresent, idPresent_iff], by rw [flagsPattern0_tsPresent]⟩

/-! ### What FLG delivers (R110, R113, R118) -/

theorem requestFlags_of_hasStatus {r : Request} {name : Bytes} (h : r.HasStatus name) :
    requestFlags r = .ok (flags (idPresent r) r.tsValid name) :=
  (requestFlags_ok_iff r _).mpr ⟨name, h, rfl⟩

/-- A unit operation returns bytes exactly on an idle block and when they are its result. -/
theorem returns_unitOperation_iff {s : State} {result : Except Stop Bytes} {res : Bytes} :
    Returns (unitOperation s result) s res ↔ s.busy = false ∧ result = .ok res := by
  constructor
  · rintro ⟨t, ht, hresp⟩
    obtain ⟨hidle, ⟨bytes, rfl, rfl⟩ | ⟨k, -, rfl⟩⟩ := unitOperation_next ht
    · rw [deliver_responses, List.append_cancel_left_eq, List.singleton_inj] at hresp
      cases hresp
      exact ⟨hidle, rfl⟩
    · rw [raiseError_responses, List.append_cancel_left_eq, List.singleton_inj] at hresp
      exact absurd (congrArg Response.kind hresp) (errorResponse_kind_ne_ok k)
  · rintro ⟨hidle, rfl⟩
    exact ⟨_, unitOperation_ok hidle res, rfl⟩

theorem returns_flg_iff {s : State} {res : Bytes} :
    Returns (exec .flg s) s res ↔ s.busy = false ∧ requestFlags s.req = .ok res := returns_unitOperation_iff

/-- What FLG returns are the flags of the request with some status name. -/
theorem returns_flg {s : State} {res : Bytes} (h : Returns (exec .flg s) s res) :
    ∃ name, res = flags (idPresent s.req) s.req.tsValid name := by
  obtain ⟨-, hflags⟩ := returns_flg_iff.mp h
  obtain ⟨name, -, hres⟩ := (requestFlags_ok_iff _ _).mp hflags
  exact ⟨name, hres⟩

/-- FLG on an idle block delivers the flags of the request. -/
theorem execFlg_ok {s : State} {name : Bytes} (hidle : s.busy = false) (hname : s.req.HasStatus name) :
    execFlg s = .next (deliver (flags (idPresent s.req) s.req.tsValid name) s) := by
  rw [execFlg, requestFlags_of_hasStatus hname, unitOperation_ok hidle]

/-- The four values of `FLAGS[0]` (R111), by the registers that decide them. -/
theorem flags0_of_request (r : Request) :
    flags0 (idPresent r) r.tsValid =
      if r.ibufLen = 0 then (if r.tsValid then 0x22#8 else 0x20#8)
      else (if r.tsValid then 0x2A#8 else 0x28#8) := by
  by_cases hlen : r.ibufLen = 0
  · have hid : idPresent r = false := Bool.eq_false_iff.mpr fun h => (idPresent_iff r).mp h hlen
    rw [hid, if_pos hlen]
    cases r.tsValid <;> rfl
  · rw [(idPresent_iff r).mpr hlen, if_neg hlen]
    cases r.tsValid <;> rfl

/-- Settles O15. -/
theorem flgBuildsFlags : Obligations.FlgBuildsFlags := by
  intro s name hidle hname f0
  have hflags : flags (idPresent s.req) s.req.tsValid name = [f0, byteOf (statusCode name).toNat] := by
    rw [flags, flags0_of_request, flags1, byteOf, BitVec.ofNat_toNat]
  exact hflags ▸ execFlg_ok hidle hname

/-- Settles O17: the sub-fields of a packet are non-empty exactly when the bits of its flags are set. -/
theorem presenceBitsFollowFields : Obligations.PresenceBitsFollowFields := by
  refine ⟨fun r w hw => ?_, fun s res h => ?_⟩
  · obtain ⟨name, idb, -, -, hid, hasm⟩ := (buildPacket_ok_iff r w).mp hw
    obtain ⟨len, -, rfl⟩ := (assemble_ok_iff _ _ _ _).mp hasm
    obtain ⟨f0, f1, hflags, hbit3, hbit1⟩ := flags_presence_bits r name
    refine ⟨f0, f1, hflags, hbit3, hbit1, ?_, tsBytes_ne_nil_iff _ _ _⟩
    rw [idBytes_ne_nil_iff hid, ← idPresent_iff, idPresent, bne_iff_ne]
  · obtain ⟨name, rfl⟩ := returns_flg h
    exact flags_presence_bits s.req name

/-- A request with the given presence of identifier and timestamp and the given status name. -/
def flagsRequest (i t : Bool) (name : Bytes) : Request :=
  { Request.reset with
    ibufLen := if i then 1 else 0, tsValid := t, status := bufferOf name, statusLen := BitVec.ofNat 8 name.length }

theorem idPresent_flagsRequest (i t : Bool) (name : Bytes) : idPresent (flagsRequest i t name) = i := by
  cases i <;> rfl

theorem hasStatus_flagsRequest (i t : Bool) {name : Bytes} (h : name.length ≤ Config.smax) :
    (flagsRequest i t name).HasStatus name := by
  have hlen : (flagsRequest i t name).statusLen.toNat = name.length := Nat.mod_eq_of_lt (Nat.lt_succ_of_le h)
  rw [Request.HasStatus, hlen]
  exact memRead_bufferOf name

/-- Each value of the flags pattern is delivered after reset, on a request with a name of its code. -/
theorem exists_returns_flg (i t : Bool) (c : BitVec 3) :
    ∃ s : State, s.busy = false ∧ Returns (exec .flg s) s [flagsPattern0 i t, flagsPattern1 c] := by
  obtain ⟨⟨name, code⟩, -, rfl, hlen⟩ := exists_name_of_statusCode c
  have hflags := requestFlags_of_hasStatus (hasStatus_flagsRequest i t hlen)
  rw [idPresent_flagsRequest, flags_eq_patterns] at hflags
  exact ⟨{ State.reset with req := flagsRequest i t name }, rfl, returns_flg_iff.mpr ⟨rfl, hflags⟩⟩

/-- Settles O19: the 32 values are those of the pattern, and the result is a function of presence and status name. -/
theorem flagsFieldValues : Obligations.FlagsFieldValues := by
  refine ⟨exists_returns_flg, fun s res h => ?_, fun _ _ _ _ _ _ => flagsPatterns_inj, ?_⟩
  · obtain ⟨name, rfl⟩ := returns_flg h
    exact ⟨_, _, _, flags_eq_patterns _ _ name⟩
  · intro s u name res _ hu hlen hts hsname huname h
    have hid : idPresent s.req = idPresent u.req := by
      rw [Bool.eq_iff_iff, idPresent_iff, idPresent_iff, ne_eq, ne_eq, hlen]
    obtain ⟨-, hflags⟩ := returns_flg_iff.mp h
    rw [requestFlags_of_hasStatus hsname, hid, hts] at hflags
    exact returns_flg_iff.mpr ⟨hu, (requestFlags_of_hasStatus huname).trans hflags⟩

end Sys2Proof.Machine

/-! PROOFS. The sub-fields family (42_subfields.md). First the rules both encoders rest on: a register as its big-endian
bytes, the size table row by row, the encoding read back. Then the timestamp and the identifier, each by what its
encoder delivers, how long that is, and how it reads back. -/

namespace Sys2Proof.Machine

/-! ### A register as its big-endian bytes (R40, R126) -/

theorem byteOf_shiftRight_eq_extractLsb' {w : Nat} (v : BitVec w) (i : Nat) :
    byteOf (v.toNat >>> i) = v.extractLsb' i 8 := rfl

theorem beBytes_four_toNat (v : BitVec 32) :
    beBytes 4 v.toNat = [v.extractLsb' 24 8, v.extractLsb' 16 8, v.extractLsb' 8 8, v.extractLsb' 0 8] := by
  simp only [beBytes_four, ← byteOf_shiftRight_eq_extractLsb', Nat.shiftRight_zero]

/-- A number that fits its bytes reads back from them. -/
theorem beNat_beBytes {k v : Nat} (h : v < 256 ^ k) : beNat (beBytes k v) = v := by
  have hread := beFold_beBytes k v
  rwa [Nat.div_eq_of_lt h] at hread

/-! ### The size table and the decoder, as the sub-fields use them (R98, R100) -/

/-- The four rows of the size table. -/
theorem vliSize_cases (n : Nat) :
    (n ≤ 63 ∧ vliSize n = 1) ∨ (64 ≤ n ∧ n ≤ 16383 ∧ vliSize n = 2) ∨
      (16384 ≤ n ∧ n ≤ 4194303 ∧ vliSize n = 3) ∨ (4194304 ≤ n ∧ vliSize n = 4) := by
  rcases Nat.lt_or_ge 63 n with h1 | h1
  · rcases Nat.lt_or_ge 16383 n with h2 | h2
    · rcases Nat.lt_or_ge 4194303 n with h3 | h3
      · exact .inr (.inr (.inr ⟨h3, vliSize_four h3⟩))
      · exact .inr (.inr (.inl ⟨h2, h3, vliSize_three h2 h3⟩))
    · exact .inr (.inl ⟨h1, h2, vliSize_two h1 h2⟩)
  · exact .inl ⟨h1, vliSize_one h1⟩

theorem vliDec_vliBytes_append {n : Nat} (h : n < 1073741824) (rest : Bytes) :
    vliDec (vliBytes n ++ rest) = some (n, vliSize n) := by
  obtain ⟨hroundTrip, -⟩ := vliRoundTrip
  exact (hroundTrip n rest (by omega)).2

/-! ### What TSE delivers (R125 to R128) -/

theorem tsBytes_absent (sec nsec : Nat) : tsBytes false sec nsec = [] := rfl

theorem tsBytes_present (sec nsec : Nat) : tsBytes true sec nsec = beBytes 4 sec ++ vliBytes nsec := rfl

theorem requestTimestamp_ok_iff (r : Request) (res : Bytes) :
    requestTimestamp r = .ok res ↔ r.InContract ∧ res = tsBytes r.tsValid r.tsSec.toNat r.tsNsec.toNat := by
  rcases requestTimestamp_cases r with ⟨hc, h⟩ | ⟨hv, hns, h⟩
  · rw [h, Except.ok.injEq, eq_comm, and_iff_right (show r.InContract from hc)]
  · simp only [h, reduceCtorEq, false_iff]
    rintro ⟨hc, -⟩
    exact absurd (hc hv) (by omega)

/-- TSE on an idle block delivers the timestamp bytes of a request that keeps the contract. -/
theorem execTse_ok {s : State} (hidle : s.busy = false) (hc : s.req.InContract) :
    execTse s = .next (deliver (tsBytes s.req.tsValid s.req.tsSec.toNat s.req.tsNsec.toNat) s) := by
  rw [execTse, (requestTimestamp_ok_iff _ _).mpr ⟨hc, rfl⟩, unitOperation_ok hidle]

theorem returns_tse {s : State} {res : Bytes} (h : Returns (exec .tse s) s res) :
    s.req.InContract ∧ res = tsBytes s.req.tsValid s.req.tsSec.toNat s.req.tsNsec.toNat := by
  obtain ⟨-, hres⟩ := returns_unitOperation_iff.mp h
  exact (requestTimestamp_ok_iff _ _).mp hres

/-- What TSE returns of a present timestamp. -/
theorem returns_tse_present {s : State} {res : Bytes} (hv : s.req.tsValid = true) (h : Returns (exec .tse s) s res) :
    s.req.tsNsec.toNat < 1000000000 ∧ res = beBytes 4 s.req.tsSec.toNat ++ vliBytes s.req.tsNsec.toNat := by
  obtain ⟨hc, rfl⟩ := returns_tse h
  exact ⟨hc hv, by rw [hv, tsBytes_present]⟩

/-- Settles O20: without a timestamp the contract holds of itself. -/
theorem tseBuildsTimestamp : Obligations.TseBuildsTimestamp := by
  intro s hidle answers sec
  have hanswers : ∀ {bytes}, s.req.InContract →
      tsBytes s.req.tsValid s.req.tsSec.toNat s.req.tsNsec.toNat = bytes → answers bytes :=
    fun hc hbytes => hbytes ▸ execTse_ok hidle hc
  refine ⟨fun hv => hanswers (fun hv' => ?_) ?_, fun hv hns => hanswers (fun _ => hns) ?_⟩
  · rw [hv] at hv'
    cases hv'
  · rw [hv, tsBytes_absent]
  · rw [hv, tsBytes_present, beBytes_four_toNat]

/-! ### The timestamp: its length, and how it reads back (R129, R137) -/

/-- Settles O21: four bytes of seconds and the size of the nanoseconds, which is in one of the four rows. -/
theorem timestampLengths : Obligations.TimestampLengths := by
  intro s res h ns
  refine ⟨fun hv => ?_, fun hv => ?_⟩
  · obtain ⟨-, rfl⟩ := returns_tse h
    rw [hv, tsBytes_absent, List.length_nil]
  · obtain ⟨hns, hres⟩ := returns_tse_present hv h
    have hlen : res.length = 4 + vliSize ns := by
      rw [hres, List.length_append, beBytes_length, vliBytes_length (by omega)]
    have hzero : ns = 0 → res[4]? = some 0x00#8 := by
      intro h0
      rw [hres, show s.req.tsNsec.toNat = 0 from h0]
      rfl
    have hrows := vliSize_cases ns
    exact ⟨hlen, by omega, by omega, by omega, by omega, fun h0 => ⟨by omega, hzero h0⟩⟩

/-- Settles O22: the first four bytes are those of the seconds, the rest is the encoding of the nanoseconds. -/
theorem timestampRoundTrip : Obligations.TimestampRoundTrip := by
  intro s res hv h
  obtain ⟨hns, rfl⟩ := returns_tse_present hv h
  have hsec := beBytes_length 4 s.req.tsSec.toNat
  have hdec := vliDec_vliBytes_append (n := s.req.tsNsec.toNat) (by omega) []
  rw [List.append_nil] at hdec
  rw [List.take_left' hsec, List.drop_left' hsec, List.length_append, hsec, Nat.add_sub_cancel_left,
    vliBytes_length (by omega)]
  exact ⟨beNat_beBytes s.req.tsSec.isLt, hdec⟩

/-! ### What IDE delivers (R130 to R134) -/

/-- The identifier encoder succeeds on an absent identifier and on a written one whose length can be encoded. -/
theorem idBytes_ok_iff (buf : Memory) (n : Nat) (idb : Bytes) :
    idBytes buf n = .ok idb ↔
      (n = 0 ∧ idb = []) ∨
        0 < n ∧ n < 1073741824 ∧ ∃ bs, memRead buf 0 n = some bs ∧ idb = vliBytes n ++ bs := by
  rcases idBytes_cases buf n with ⟨hn, h⟩ | ⟨hn, h⟩ | ⟨hn, hlt, hread, h⟩ | ⟨bs, hn, hlt, hread, h⟩ <;> rw [h]
  · simp [hn, eq_comm]
  · simp only [reduceCtorEq, false_iff]
    omega
  · simp [hn.ne', hread]
  · simp [hn, hn.ne', hlt, hread, eq_comm]

theorem returns_ide {s : State} {res : Bytes} (h : Returns (exec .ide s) s res) :
    idBytes s.req.ibuf s.req.ibufLen.toNat = .ok res := by
  obtain ⟨-, hres⟩ := returns_unitOperation_iff.mp h
  exact hres

/-- IDE on an idle block delivers what the identifier encoder gives. -/
theorem execIde_ok {s : State} {idb : Bytes} (hidle : s.busy = false)
    (h : idBytes s.req.ibuf s.req.ibufLen.toNat = .ok idb) : execIde s = .next (deliver idb s) := by
  rw [execIde, h, unitOperation_ok hidle]

theorem execIde_raised {s : State} (hidle : s.busy = false) (h : 1073741824 ≤ s.req.ibufLen.toNat) :
    execIde s = .next (raiseError .integerTooLarge s) := by
  rw [execIde, (idBytes_integerTooLarge_iff _ _).mpr h, unitOperation_raised hidle]

/-- Settles O23. -/
theorem ideBuildsIdentifier : Obligations.IdeBuildsIdentifier := by
  intro s hidle n answers
  refine ⟨fun hn => ?_, fun bs hn hlt hbuf => ?_, fun hn => execIde_raised hidle hn⟩
  · exact execIde_ok hidle ((idBytes_ok_iff _ _ _).mpr (.inl ⟨hn, rfl⟩))
  · exact execIde_ok hidle ((idBytes_ok_iff _ _ _).mpr (.inr ⟨hn, hlt, bs, hbuf, rfl⟩))

/-! ### The identifier: its length, and how it reads back (R135, R136) -/

/-- The identifier bytes are the encoded length, of its own size, and the identifier. -/
theorem idBytes_length {buf : Memory} {n : Nat} {idb : Bytes} (h : idBytes buf n = .ok idb) :
    (n = 0 ∧ idb.length = 0) ∨ (0 < n ∧ n < 1073741824 ∧ idb.length = n + vliSize n) := by
  rcases (idBytes_ok_iff _ _ _).mp h with ⟨hn, rfl⟩ | ⟨hn, hlt, bs, hread, rfl⟩
  · exact .inl ⟨hn, rfl⟩
  · refine .inr ⟨hn, hlt, ?_⟩
    rw [List.length_append, vliBytes_length hlt, memRead_length hread, Nat.add_comm]

/-- Step 3 finds a final length only below the bound of R158. -/
theorem le_of_finalLength {b len : Nat} (h : finalLength b = some len) : b ≤ 4194300 := by
  rcases finalLength_cases b with ⟨hb, -⟩ | ⟨-, hb, -⟩ | ⟨-, hb, -⟩ | ⟨-, hnone⟩
  · omega
  · omega
  · exact hb
  · rw [hnone] at h
    cases h

/-- The identifier bytes of a built packet share the bound of R158 with signature, flags and checksum. -/
theorem buildPacket_idBytes {r : Request} {w : Work} (h : buildPacket r = .ok w) :
    ∃ idb, idBytes r.ibuf r.ibufLen.toNat = .ok idb ∧ 7 + idb.length ≤ 4194300 := by
  obtain ⟨name, idb, -, -, hid, hasm⟩ := (buildPacket_ok_iff r w).mp h
  obtain ⟨len, hlen, -⟩ := (assemble_ok_iff _ _ _ _).mp hasm
  have hbase := le_of_finalLength hlen
  rw [provisionalBody_length, flags_length] at hbase
  exact ⟨idb, hid, by omega⟩

/-- Settles O24: the identifier and its size, row by row; the lengths that do not occur fall between the rows. -/
theorem identifierLengths : Obligations.IdentifierLengths := by
  refine ⟨fun s res h => ?_, fun r w hw => ?_⟩
  · intro n
    have hlen : (n = 0 ∧ res.length = 0) ∨ (0 < n ∧ n < 1073741824 ∧ res.length = n + vliSize n) :=
      idBytes_length (returns_ide h)
    have hrows := vliSize_cases n
    refine ⟨?_, ?_, ?_, ?_, ?_, ?_, ?_, ?_⟩ <;> omega
  · obtain ⟨idb, hid, hbound⟩ := buildPacket_idBytes hw
    have hlen := idBytes_length hid
    have hrows := vliSize_cases r.ibufLen.toNat
    omega

/-- Settles O25: the result begins with the encoding of the length, and behind it stands what was read from `IBUF`. -/
theorem identifierRoundTrip : Obligations.IdentifierRoundTrip := by
  intro s res hne h
  rcases (idBytes_ok_iff _ _ _).mp (returns_ide h) with ⟨hn, -⟩ | ⟨-, hlt, bs, hread, rfl⟩
  · exact absurd (BitVec.eq_of_toNat_eq hn) hne
  · rw [List.drop_left' (vliBytes_length hlt)]
    exact ⟨vliDec_vliBytes_append hlt bs, hread⟩

end Sys2Proof.Machine

/-! PROOFS. The CRC family (43_crc32.md). First the operation, by what it delivers; then the table form, which rests on
the conditional shift being linear over exclusive OR and a plain shift where the bit shifted out is 0; then the known
answers. -/

namespace Sys2Proof.Machine

/-! ### What CRC delivers (R140, R144) -/

/-- The checksum bytes are the four slices of the register, most significant first. -/
theorem checksum_eq (m : Bytes) :
    checksum m = [(crc32 m).extractLsb' 24 8, (crc32 m).extractLsb' 16 8, (crc32 m).extractLsb' 8 8,
      (crc32 m).extractLsb' 0 8] :=
  beBytes_four_toNat (crc32 m)

theorem requestChecksum_of_hasBuffer {r : Request} {m : Bytes} (h : r.HasBuffer m) :
    requestChecksum r = .ok (checksum m) :=
  (requestChecksum_ok_iff r _).mpr ⟨m, h, rfl⟩

/-- CRC on an idle block delivers the checksum of the message. -/
theorem execCrc_ok {s : State} {m : Bytes} (hidle : s.busy = false) (hmsg : s.req.HasBuffer m) :
    execCrc s = .next (deliver (checksum m) s) := by
  rw [execCrc, requestChecksum_of_hasBuffer hmsg, unitOperation_ok hidle]

/-- Settles O26. -/
theorem crcDeliversChecksum : Obligations.CrcDeliversChecksum := by
  intro s m hidle hmsg c
  exact checksum_eq m ▸ execCrc_ok hidle hmsg

/-! ### The conditional shifts are linear (R142) -/

/-- What the bit shifted out puts back into the register. -/
def crcFeedback (bit : Bool) : BitVec 32 := if bit then 0xEDB88320#32 else 0#32

theorem crcFeedback_xor (a b : Bool) : crcFeedback (a ^^ b) = crcFeedback a ^^^ crcFeedback b := by
  cases a <;> cases b <;> rfl

theorem crcBit_eq (x : BitVec 32) : crcBit x = (x >>> 1) ^^^ crcFeedback (x.getLsbD 0) := by
  unfold crcBit crcFeedback
  split
  · rfl
  · exact BitVec.xor_zero.symm

theorem crcBit_of_clear {x : BitVec 32} (h : x.getLsbD 0 = false) : crcBit x = x >>> 1 := by
  rw [crcBit_eq, h]
  exact BitVec.xor_zero

theorem crcBit_xor (x y : BitVec 32) : crcBit (x ^^^ y) = crcBit x ^^^ crcBit y := by
  rw [crcBit_eq, BitVec.ushiftRight_xor_distrib, BitVec.getLsbD_xor, crcFeedback_xor, crcBit_eq, crcBit_eq]
  ac_rfl

theorem crcShift_xor (k : Nat) (x y : BitVec 32) : crcShift k (x ^^^ y) = crcShift k x ^^^ crcShift k y := by
  induction k generalizing x y with
  | zero => rfl
  | succ k ih => rw [crcShift, crcBit_xor, ih, crcShift, crcShift]

/-- No feedback while the bits shifted out are 0. -/
theorem crcShift_of_clear {k : Nat} {x : BitVec 32} (h : ∀ i < k, x.getLsbD i = false) : crcShift k x = x >>> k := by
  induction k generalizing x with
  | zero => rw [crcShift, BitVec.ushiftRight_zero]
  | succ k ih =>
    have hrest : ∀ i < k, (x >>> 1).getLsbD i = false := fun i hi => by
      rw [BitVec.getLsbD_ushiftRight]
      exact h (1 + i) (by omega)
    rw [crcShift, crcBit_of_clear (h 0 k.succ_pos), ih hrest, ← BitVec.shiftRight_add, Nat.add_comm]

/-! ### The table form (R143) -/

/-- A register is its upper 24 bits and its low byte. -/
theorem eq_upper_xor_lowByte (x : BitVec 32) : x = (x >>> 8 <<< 8) ^^^ (x.setWidth 8).setWidth 32 := by
  ext i hi
  rcases Nat.lt_or_ge i 8 with h | h
  · simp [h, hi]
  · simp [Nat.not_lt.mpr h, Nat.add_sub_cancel' h, hi]

/-- Eight shifts move the upper 24 bits down and replace the low byte by its table entry. -/
theorem crcShift_eight (x : BitVec 32) : crcShift 8 x = (x >>> 8) ^^^ crcTable (x.setWidth 8) := by
  have hclear : ∀ i < 8, (x >>> 8 <<< 8).getLsbD i = false := fun i hi => by simp [hi]
  have hback : x >>> 8 <<< 8 >>> 8 = x >>> 8 := by
    ext i hi
    simpa using fun h => BitVec.lt_of_getLsbD h
  calc crcShift 8 x
      = crcShift 8 ((x >>> 8 <<< 8) ^^^ (x.setWidth 8).setWidth 32) := by rw [← eq_upper_xor_lowByte]
    _ = crcShift 8 (x >>> 8 <<< 8) ^^^ crcTable (x.setWidth 8) := crcShift_xor _ _ _
    _ = (x >>> 8) ^^^ crcTable (x.setWidth 8) := by rw [crcShift_of_clear hclear, hback]

/-- A message byte enters the low 8 bits only. -/
theorem xor_byte_ushiftRight (acc : BitVec 32) (b : Byte) : (acc ^^^ b.setWidth 32) >>> 8 = acc >>> 8 := by
  ext i hi
  simp

theorem crcTableByte_eq_crcByte (acc : BitVec 32) (b : Byte) : crcTableByte acc b = crcByte acc b := by
  rw [crcByte, crcShift_eight, xor_byte_ushiftRight, crcTableByte]

theorem crc32ByTable_eq_crc32 (m : Bytes) : crc32ByTable m = crc32 m := by
  have hstep : crcTableByte = crcByte := funext fun acc => funext (crcTableByte_eq_crcByte acc)
  rw [crc32ByTable, hstep, crc32, crcRegister]

/-- Settles O27: each table step is a byte step, so the folds agree; the entries evaluate. -/
theorem crcTableFormAgrees : Obligations.CrcTableFormAgrees :=
  ⟨crc32ByTable_eq_crc32, crcTableByte_eq_crcByte, rfl, rfl, rfl, rfl, rfl, rfl, rfl, rfl, rfl, rfl, rfl⟩

/-! ### The known answers (R145, R146) -/

theorem crc32_of_register {m : Bytes} {acc : BitVec 32} (h : crcRegister m = acc) : crc32 m = acc ^^^ 0xFFFFFFFF#32 := by
  rw [crc32, h]

/-- The worked trace of R142: the register after each byte of the document's message. -/
theorem crcRegister_document : crcRegister [0xB3#8, 0x20#8, 0x00#8, 0x08#8] = 0xE7EA0F45#32 := by
  have h0 : crcByte 0xFFFFFFFF#32 0xB3#8 = 0x7F95F244#32 := rfl
  have h1 : crcByte 0x7F95F244#32 0x20#8 = 0x4AA030B3#32 := rfl
  have h2 : crcByte 0x4AA030B3#32 0x00#8 = 0x52224206#32 := rfl
  have h3 : crcByte 0x52224206#32 0x08#8 = 0xE7EA0F45#32 := rfl
  simp only [crcRegister, List.foldl_cons, List.foldl_nil, h0, h1, h2, h3]

theorem crc32_document : crc32 [0xB3#8, 0x20#8, 0x00#8, 0x08#8] = 0x1815F0BA#32 :=
  crc32_of_register crcRegister_document

/-- The same trace for the corner case of four zero bytes. -/
theorem crcRegister_four_zeros : crcRegister [0x00#8, 0x00#8, 0x00#8, 0x00#8] = 0xDEBB20E3#32 := by
  have h0 : crcByte 0xFFFFFFFF#32 0x00#8 = 0x2DFD1072#32 := rfl
  have h1 : crcByte 0x2DFD1072#32 0x00#8 = 0xBE26ED00#32 := rfl
  have h2 : crcByte 0xBE26ED00#32 0x00#8 = 0x00BE26ED#32 := rfl
  have h3 : crcByte 0x00BE26ED#32 0x00#8 = 0xDEBB20E3#32 := rfl
  simp only [crcRegister, List.foldl_cons, List.foldl_nil, h0, h1, h2, h3]

/-- Settles O28: the messages of four bytes by their traces, the shorter ones by evaluation. -/
theorem crcKnownAnswers : Obligations.CrcKnownAnswers := by
  refine ⟨crc32_document, ?_, rfl, rfl, rfl, rfl, rfl, crc32_of_register crcRegister_four_zeros⟩
  rw [checksum_eq, crc32_document]
  rfl

end Sys2Proof.Machine

/-! PROOFS. The frame family (44_frame.md). First the thresholds of step 3 and what a built packet is made of, field by
field; then the packet read back, by the reference parse and as part of a stream; then which requests give a packet and
how ENC ends on each; last the statements that compare packets, and the smallest one. -/

namespace Sys2Proof.Machine

/-! ### The thresholds of step 3 (R158, R165) -/

/-- The rows of the threshold table, with the size of the length that each row gives. -/
theorem finalLength_rows {b len : Nat} (h : finalLength b = some len) :
    (b ≤ 62 ∧ len = b + 1 ∧ vliSize len = 1) ∨ (63 ≤ b ∧ b ≤ 16381 ∧ len = b + 2 ∧ vliSize len = 2) ∨
      (16382 ≤ b ∧ b ≤ 4194300 ∧ len = b + 3 ∧ vliSize len = 3) := by
  rcases finalLength_cases b with ⟨hb, hlen⟩ | ⟨hb, hb', hlen⟩ | ⟨hb, hb', hlen⟩ | ⟨-, hlen⟩ <;>
    rw [hlen] at h <;> cases h
  · exact .inl ⟨hb, rfl, vliSize_one (by omega)⟩
  · exact .inr (.inl ⟨hb, hb', rfl, vliSize_two (by omega) (by omega)⟩)
  · exact .inr (.inr ⟨hb, hb', rfl, vliSize_three (by omega) (by omega)⟩)

theorem finalLength_one {b : Nat} (h : b ≤ 62) : finalLength b = some (b + 1) := if_pos h

theorem finalLength_two {b : Nat} (h : 63 ≤ b) (h' : b ≤ 16381) : finalLength b = some (b + 2) := by
  rw [finalLength, if_neg (by omega), if_pos h']

theorem finalLength_three {b : Nat} (h : 16382 ≤ b) (h' : b ≤ 4194300) : finalLength b = some (b + 3) := by
  rw [finalLength, if_neg (by omega), if_neg (by omega), if_pos h']

theorem finalLength_none {b : Nat} (h : 4194301 ≤ b) : finalLength b = none := by
  rw [finalLength, if_neg (by omega), if_neg (by omega), if_neg (by omega)]

/-- Up to the bound of R158 step 3 finds the length by its thresholds. -/
theorem finalLength_of_le {b : Nat} (h : b ≤ 4194300) :
    finalLength b = some (if b ≤ 62 then b + 1 else if b ≤ 16381 then b + 2 else b + 3) := by
  rw [finalLength, if_pos h]
  split_ifs <;> rfl

/-- Settles O33: the bytes a row adds are the size of the length it gives. -/
theorem thresholdsAreExact : Obligations.ThresholdsAreExact := by
  intro b hb
  refine ⟨fun h => ?_, fun h h' => ?_, fun h h' => ?_, finalLength_none⟩
  · exact ⟨finalLength_one h, by omega, by omega, by rw [vliBytes_length (by omega), vliSize_one (by omega)]⟩
  · exact ⟨finalLength_two h h', by omega, by omega,
      by rw [vliBytes_length (by omega), vliSize_two (by omega) (by omega)]⟩
  · exact ⟨finalLength_three h h', by omega, by omega,
      by rw [vliBytes_length (by omega), vliSize_three (by omega) (by omega)]⟩

/-! ### What a built packet is made of (R155 to R162) -/

/-- The working registers of a finished ENC, field by field, for a request and its status name. -/
structure FrameOf (r : Request) (name : Bytes) (w : Work) : Prop where
  /-- R155. -/
  built : buildPacket r = .ok w
  /-- R128. -/
  inContract : r.InContract
  /-- R22. -/
  hasStatus : r.HasStatus name
  /-- R110. -/
  flags_eq : w.flags = flags (idPresent r) r.tsValid name
  /-- R125. -/
  tsb_eq : w.tsb = tsBytes r.tsValid r.tsSec.toNat r.tsNsec.toNat
  /-- R130. -/
  idb_ok : idBytes r.ibuf r.ibufLen.toNat = .ok w.idb
  /-- R157. -/
  baseLen_eq : w.baseLen = 7 + w.tsb.length + w.idb.length
  /-- R158. -/
  len_ok : finalLength w.baseLen = some w.len
  /-- R159. -/
  lenb_eq : w.lenb = vliBytes w.len
  /-- R160 to R162. -/
  pkt_eq : w.pkt = packetBody w.flags w.lenb w.tsb w.idb ++ checksum (packetBody w.flags w.lenb w.tsb w.idb)

/-- Every packet built is the frame of its request with the status name that stands in it. -/
theorem exists_frameOf {r : Request} {w : Work} (h : buildPacket r = .ok w) : ∃ name, FrameOf r name w := by
  obtain ⟨name, idb, hc, hname, hid, hasm⟩ := (buildPacket_ok_iff r w).mp h
  obtain ⟨len, hlen, rfl⟩ := (assemble_ok_iff _ _ _ _).mp hasm
  refine ⟨name, h, hc, hname, rfl, rfl, hid, ?_, hlen, rfl, rfl⟩
  simp only [provisionalBody_length, flags_length]
  omega

theorem frameOf_of_hasStatus {r : Request} {name : Bytes} {w : Work} (hname : r.HasStatus name)
    (h : buildPacket r = .ok w) : FrameOf r name w := by
  obtain ⟨name', hw⟩ := exists_frameOf h
  obtain rfl : name' = name := Option.some.inj (hw.hasStatus.symm.trans hname)
  exact hw

/-- `len(IDB)` of a request whose identifier can be encoded (R135). -/
def Request.identifierLength (r : Request) : Nat :=
  if r.ibufLen.toNat = 0 then 0 else r.ibufLen.toNat + vliSize r.ibufLen.toNat

theorem idBytes_length_eq {r : Request} {idb : Bytes} (h : idBytes r.ibuf r.ibufLen.toNat = .ok idb) :
    idb.length = r.identifierLength := by
  rcases idBytes_length h with ⟨hn, hlen⟩ | ⟨hn, -, hlen⟩
  · rw [hlen, Request.identifierLength, if_pos hn]
  · rw [hlen, Request.identifierLength, if_neg hn.ne']

theorem tsBytes_length_eq {r : Request} (hc : r.InContract) :
    (tsBytes r.tsValid r.tsSec.toNat r.tsNsec.toNat).length = r.timestampLength := by
  cases hv : r.tsValid
  · simp [tsBytes_absent, Request.timestampLength, hv]
  · have hns := hc hv
    simp [tsBytes_present, Request.timestampLength, hv, vliBytes_length (show r.tsNsec.toNat < 1073741824 by omega)]

/-- The lengths of R129: no timestamp, or one of five to eight bytes. -/
theorem timestampLength_cases (r : Request) :
    r.timestampLength = 0 ∨ 5 ≤ r.timestampLength ∧ r.timestampLength ≤ 8 := by
  have hsize := vliSize_bounds r.tsNsec.toNat
  unfold Request.timestampLength
  split_ifs <;> omega

/-- The identifier bytes by the rows of R135. -/
theorem identifierLength_cases (r : Request) :
    (r.ibufLen.toNat = 0 ∧ r.identifierLength = 0) ∨
      (1 ≤ r.ibufLen.toNat ∧ r.ibufLen.toNat ≤ 63 ∧ r.identifierLength = r.ibufLen.toNat + 1) ∨
      (64 ≤ r.ibufLen.toNat ∧ r.ibufLen.toNat ≤ 16383 ∧ r.identifierLength = r.ibufLen.toNat + 2) ∨
      (16384 ≤ r.ibufLen.toNat ∧ r.ibufLen.toNat ≤ 4194303 ∧ r.identifierLength = r.ibufLen.toNat + 3) ∨
      (4194304 ≤ r.ibufLen.toNat ∧ r.identifierLength = r.ibufLen.toNat + 4) := by
  have hrows := vliSize_cases r.ibufLen.toNat
  unfold Request.identifierLength
  split_ifs <;> omega

namespace FrameOf

variable {r : Request} {name : Bytes} {w : Work}

theorem tsb_length (h : FrameOf r name w) : w.tsb.length = r.timestampLength := by
  rw [h.tsb_eq, tsBytes_length_eq h.inContract]

theorem idb_length (h : FrameOf r name w) : w.idb.length = r.identifierLength := idBytes_length_eq h.idb_ok

/-- `L` and the size of its field, by the threshold row of `BASELEN`. -/
theorem len_rows (h : FrameOf r name w) :
    (w.baseLen ≤ 62 ∧ w.len = w.baseLen + 1 ∧ w.lenb.length = 1) ∨
      (63 ≤ w.baseLen ∧ w.baseLen ≤ 16381 ∧ w.len = w.baseLen + 2 ∧ w.lenb.length = 2) ∨
      (16382 ≤ w.baseLen ∧ w.baseLen ≤ 4194300 ∧ w.len = w.baseLen + 3 ∧ w.lenb.length = 3) := by
  have hrows := finalLength_rows h.len_ok
  rw [h.lenb_eq, vliBytes_length (by omega)]
  exact hrows

theorem len_bounds (h : FrameOf r name w) : 8 ≤ w.len ∧ w.len ≤ 4194303 := by
  have hrows := h.len_rows
  have hbase := h.baseLen_eq
  omega

theorem len_eq (h : FrameOf r name w) : w.len = w.baseLen + w.lenb.length := by
  rw [h.lenb_eq]
  exact finalLength_eq_add_length h.len_ok

theorem pkt_length (h : FrameOf r name w) : w.pkt.length = w.len := by
  obtain ⟨-, -, hlen⟩ := buildPacket_pkt h.built
  exact hlen

theorem body_length (h : FrameOf r name w) : (packetBody w.flags w.lenb w.tsb w.idb).length = w.len - 4 := by
  rw [← h.pkt_length, h.pkt_eq, List.length_append, checksum_length, Nat.add_sub_cancel]

theorem pkt_take (h : FrameOf r name w) : w.pkt.take (w.len - 4) = packetBody w.flags w.lenb w.tsb w.idb := by
  rw [h.pkt_eq, List.take_left' h.body_length]

theorem pkt_drop (h : FrameOf r name w) :
    w.pkt.drop (w.len - 4) = checksum (packetBody w.flags w.lenb w.tsb w.idb) := by
  rw [h.pkt_eq, List.drop_left' h.body_length]

/-- The packet, field after field (R46, R70). -/
theorem pkt_fields (h : FrameOf r name w) :
    w.pkt = Config.signature :: flagsPattern0 (idPresent r) r.tsValid :: flagsPattern1 (statusCode name) ::
      (vliBytes w.len ++ (w.tsb ++ (w.idb ++ checksum (w.pkt.take (w.len - 4))))) := by
  rw [h.pkt_take, h.pkt_eq, packetBody, h.lenb_eq, h.flags_eq, flags_eq_patterns]
  simp

/-- The length field reads back at offset 3, whatever follows the packet (R164). -/
theorem vliDec_length_field (h : FrameOf r name w) (rest : Bytes) :
    vliDec ((w.pkt ++ rest).drop 3) = some (w.len, w.lenb.length) := by
  have hlen : w.len < 1073741824 := by
    have hbounds := h.len_bounds
    omega
  rw [h.lenb_eq, vliBytes_length hlen, h.pkt_fields]
  simp only [List.cons_append, List.drop_succ_cons, List.drop_zero, List.append_assoc]
  exact vliDec_vliBytes_append hlen _

end FrameOf

/-- Settles O35, from the fields of the packet. -/
theorem packetInvariants : Obligations.PacketInvariants := by
  intro r w h
  obtain ⟨name, hw⟩ := exists_frameOf h
  have hfield := hw.vliDec_length_field []
  rw [List.append_nil] at hfield
  have hlen := hw.len_eq
  have hbase := hw.baseLen_eq
  refine ⟨hfield, hw.pkt_length, ?_, ?_, ?_⟩
  · rw [hw.pkt_drop, hw.pkt_take, checksum]
  · rw [hw.pkt_length]
    omega
  · rw [hw.pkt_length]
    omega

/-! ### The packet read back by the reference parse (R171) -/

/-- The parse of the timestamp field undoes the encoder and stops behind the field. -/
theorem parseTimestamp_tsBytes {r : Request} (hc : r.InContract) (rest : Bytes) :
    parseTimestamp r.tsValid (tsBytes r.tsValid r.tsSec.toNat r.tsNsec.toNat ++ rest) =
      some (if r.tsValid then some (r.tsSec.toNat, r.tsNsec.toNat) else none, rest) := by
  cases hv : r.tsValid with
  | false => simp [parseTimestamp, tsBytes_absent]
  | true =>
    have hns : r.tsNsec.toNat < 1073741824 := (hc hv).trans (by decide)
    have hsec := beBytes_length 4 r.tsSec.toNat
    have hread : beNat (beBytes 4 r.tsSec.toNat) = r.tsSec.toNat := beNat_beBytes r.tsSec.isLt
    rw [parseTimestamp, if_pos rfl, tsBytes_present, List.append_assoc, List.drop_left' hsec, List.take_left' hsec,
      vliDec_vliBytes_append hns]
    simp only [List.drop_left' (vliBytes_length hns), hread, if_true]

/-- The parse of the identifier field undoes the encoder and stops behind the field. -/
theorem parseIdentifier_idBytes {r : Request} {ident idb : Bytes} (hident : r.HasBuffer ident)
    (h : idBytes r.ibuf r.ibufLen.toNat = .ok idb) (rest : Bytes) :
    parseIdentifier (idPresent r) (idb ++ rest) = some (ident, rest) := by
  rcases (idBytes_ok_iff _ _ _).mp h with ⟨hn, rfl⟩ | ⟨hn, hlt, bs, hread, rfl⟩
  · have hempty : ident = [] := List.length_eq_zero_iff.mp ((memRead_length hident).trans hn)
    simp [parseIdentifier, idPresent, hn, hempty]
  · obtain rfl : bs = ident := Option.some.inj (hread.symm.trans hident)
    have hlen := memRead_length hread
    have hpresent : idPresent r = true := bne_iff_ne.mpr hn.ne'
    rw [parseIdentifier, hpresent, if_pos rfl, List.append_assoc, vliDec_vliBytes_append hlt]
    simp only [List.drop_left' (vliBytes_length hlt), List.take_left' hlen, List.drop_left' hlen, List.length_append]
    rw [if_neg (by omega)]

/-- The parse accepts bytes whose fields it can read one after the other up to the four bytes of the right checksum. -/
theorem parse_eq_some {p rest afterTs afterId ident : Bytes} {f0 f1 : Byte} {k : Nat} {ts : Option (Nat × Nat)}
    (hp : p = Config.signature :: f0 :: f1 :: rest) (hlong : 8 ≤ p.length) (hlen : vliDec rest = some (p.length, k))
    (hts : parseTimestamp (f0.getLsbD 1) (rest.drop k) = some (ts, afterTs))
    (hid : parseIdentifier (f0.getLsbD 3) afterTs = some (ident, afterId))
    (hcrc : afterId = checksum (p.take (p.length - 4))) :
    parse p =
      some { version := f0.extractLsb' 4 4, status := f1.setWidth 3, timestamp := ts, identifier := ident } := by
  have hend : afterId.length = 4 := by rw [hcrc, checksum_length]
  subst hp
  have hstart : ¬((Config.signature :: f0 :: f1 :: rest).length < 8 ∨ Config.signature ≠ Config.signature) :=
    not_or.mpr ⟨not_lt.mpr hlong, not_not.mpr rfl⟩
  simp only [parse, hlen, hts, hid]
  rw [if_neg hstart, if_neg (not_not.mpr rfl), if_neg (not_not.mpr hend), if_neg (not_not.mpr hcrc)]

/-- The parse of a packet gives back its Event. -/
theorem FrameOf.parse_pkt {r : Request} {name ident : Bytes} {w : Work} (h : FrameOf r name w)
    (hident : r.HasBuffer ident) :
    parse w.pkt = some
      { version := 2#4, status := statusCode name,
        timestamp := if r.tsValid then some (r.tsSec.toNat, r.tsNsec.toNat) else none, identifier := ident } := by
  obtain ⟨hlong, hmax⟩ := h.len_bounds
  have hlen : w.len < 1073741824 := by omega
  have hfield := vliDec_vliBytes_append hlen (w.tsb ++ (w.idb ++ checksum (w.pkt.take (w.len - 4))))
  have hts := parseTimestamp_tsBytes h.inContract (w.idb ++ checksum (w.pkt.take (w.len - 4)))
  have hid := parseIdentifier_idBytes hident h.idb_ok (checksum (w.pkt.take (w.len - 4)))
  rw [← h.tsb_eq] at hts
  have hparse := parse_eq_some h.pkt_fields (by rwa [h.pkt_length]) (by rw [h.pkt_length]; exact hfield)
    (by rw [flagsPattern0_tsPresent, List.drop_left' (vliBytes_length hlen)]; exact hts)
    (by rw [flagsPattern0_idPresent]; exact hid) (by rw [h.pkt_length])
  rwa [flagsPattern0_version, flagsPattern1_status] at hparse

/-- Settles O36. -/
theorem packetParsesBack : Obligations.PacketParsesBack :=
  fun _ _ _ _ hname hident h => (frameOf_of_hasStatus hname h).parse_pkt hident

/-! ### Every packet sent is valid (R164, R171, R174) -/

/-- An identifier that was encoded has been written. -/
theorem exists_hasBuffer_of_idBytes {r : Request} {idb : Bytes} (h : idBytes r.ibuf r.ibufLen.toNat = .ok idb) :
    ∃ ident, r.HasBuffer ident := by
  rcases (idBytes_ok_iff _ _ _).mp h with ⟨hn, -⟩ | ⟨-, -, bs, hread, -⟩
  · exact ⟨[], by rw [Request.HasBuffer, hn, memRead_zero]⟩
  · exact ⟨bs, hread⟩

theorem validPacket_of_buildPacket {r : Request} {w : Work} (h : buildPacket r = .ok w) : ValidPacket w.pkt := by
  obtain ⟨name, hw⟩ := exists_frameOf h
  obtain ⟨ident, hident⟩ := exists_hasBuffer_of_idBytes hw.idb_ok
  exact ⟨_, hw.parse_pkt hident, rfl⟩

/-- Only the write of ENC adds to the packets sent, and what it adds is a packet built from the request. -/
theorem sentPacketsValid_stepInvariant : StepInvariant SentPacketsValid where
  onReader _ _ hs := hs
  onTake _ _ _ _ _ hs := hs
  onRequest _ _ _ _ _ hs := hs
  onReset _ _ hs := hs
  onDeliver _ _ _ hs := hs
  onRaise _ _ _ hs := hs
  onWrite _ _ _ hw hs := List.forall_mem_append.mpr ⟨hs, List.forall_mem_singleton.mpr (validPacket_of_buildPacket hw)⟩
  onAnswer s _ hs := by rwa [SentPacketsValid, awaitSink_sinkWrites]

/-- Settles O58: what ENC writes is a packet, and the reference parse accepts every packet. -/
theorem sentPacketsValidKept : Obligations.SentPacketsValidKept :=
  fun _ _ hs h => sentPacketsValid_stepInvariant.step_kept hs h

/-! ### A stream of packets cut by the length fields (R70, R176) -/

/-- A packet whose length field gives its length is cut off the front of a stream. -/
theorem cutPackets_append {p : Bytes} {k : Nat} (hpos : 0 < p.length)
    (hlen : ∀ rest, vliDec ((p ++ rest).drop 3) = some (p.length, k)) (fuel : Nat) (rest : Bytes) :
    cutPackets (fuel + 1) (p ++ rest) = (cutPackets fuel rest).map (p :: ·) := by
  obtain ⟨b, p', rfl⟩ := List.exists_cons_of_length_pos hpos
  have hfits : ¬((b :: p').length = 0 ∨ (b :: (p' ++ rest)).length < (b :: p').length) := by
    simp only [List.length_cons, List.length_append]
    omega
  have hfield := hlen rest
  rw [List.cons_append] at hfield
  rw [List.cons_append, cutPackets, hfield]
  simp only [if_neg hfits]
  rw [← List.cons_append, List.drop_left, List.take_left]

/-- Settles O42, by induction on the packets: each is cut off in front of the stream of those behind it. -/
theorem streamCutsIntoPackets : Obligations.StreamCutsIntoPackets := by
  intro rs ws h
  induction h with
  | nil => rfl
  | @cons r w rs ws hw _ ih =>
    obtain ⟨name, hframe⟩ := exists_frameOf hw
    have hfield : ∀ rest, vliDec ((w.pkt ++ rest).drop 3) = some (w.pkt.length, w.lenb.length) := by
      rw [hframe.pkt_length]
      exact hframe.vliDec_length_field
    have hpos : 0 < w.pkt.length := by
      rw [hframe.pkt_length]
      exact Nat.lt_of_lt_of_le (by decide) hframe.len_bounds.1
    rw [List.map_cons, List.flatten_cons, List.length_cons, cutPackets_append hpos hfield, ih, Option.map_some]

/-! ### Which requests give a packet (R158, R168, R172) -/

/-- `BASELEN` of a request, from the lengths of its sub-fields (R157). -/
def Request.baseLength (r : Request) : Nat := 7 + r.timestampLength + r.identifierLength

theorem FrameOf.baseLen_eq_baseLength {r : Request} {name : Bytes} {w : Work} (h : FrameOf r name w) :
    w.baseLen = r.baseLength := by
  rw [h.baseLen_eq, h.tsb_length, h.idb_length, Request.baseLength]

theorem provisionalBody_length_of_request {r : Request} {idb : Bytes} (name : Bytes) (hc : r.InContract)
    (hid : idBytes r.ibuf r.ibufLen.toNat = .ok idb) :
    (provisionalBody (flags (idPresent r) r.tsValid name) (tsBytes r.tsValid r.tsSec.toNat r.tsNsec.toNat) idb).length +
      4 = r.baseLength := by
  rw [provisionalBody_length, flags_length, tsBytes_length_eq hc, idBytes_length_eq hid, Request.baseLength]
  omega

section WellFormed

variable {r : Request} {name ident : Bytes}

/-- The identifier bytes of a written identifier (R130 to R132). -/
theorem idBytes_of_hasBuffer (hident : r.HasBuffer ident) (hn : r.ibufLen.toNat < 1073741824) :
    idBytes r.ibuf r.ibufLen.toNat = .ok (if ident = [] then [] else vliBytes ident.length ++ ident) := by
  have hlen : ident.length = r.ibufLen.toNat := memRead_length hident
  rw [idBytes_ok_iff]
  by_cases hempty : ident = []
  · exact .inl ⟨by rw [← hlen, hempty, List.length_nil], if_pos hempty⟩
  · have hpos := List.length_pos_iff.mpr hempty
    exact .inr ⟨by omega, hn, ident, hident, by rw [if_neg hempty, hlen]⟩

/-- A well-formed request whose `BASELEN` is within the thresholds gives a packet. -/
theorem exists_buildPacket (hc : r.InContract) (hname : r.HasStatus name) (hident : r.HasBuffer ident)
    (hn : r.ibufLen.toNat < 1073741824) (hbase : r.baseLength ≤ 4194300) : ∃ w, buildPacket r = .ok w := by
  have hid := idBytes_of_hasBuffer hident hn
  have hlen := finalLength_of_le hbase
  rw [← provisionalBody_length_of_request name hc hid] at hlen
  exact ⟨_, (buildPacket_ok_iff _ _).mpr ⟨name, _, hc, hname, hid, (assemble_ok_iff _ _ _ _).mpr ⟨_, hlen, rfl⟩⟩⟩

/-- A well-formed request whose `BASELEN` is beyond the thresholds raises PacketTooLarge. -/
theorem buildPacket_packetTooLarge (hc : r.InContract) (hname : r.HasStatus name) (hident : r.HasBuffer ident)
    (hn : r.ibufLen.toNat < 1073741824) (hbase : 4194301 ≤ r.baseLength) :
    buildPacket r = .error (.raised .packetTooLarge) := by
  have hid := idBytes_of_hasBuffer hident hn
  rw [buildPacket_eq_bind hc hname, hid]
  simp only [Except.bind, assemble, provisionalBody_length_of_request name hc hid, finalLength_none hbase]

end WellFormed

/-- The threshold of R158 as a bound on the identifier alone (R168). -/
theorem baseLength_le_iff (r : Request) :
    r.baseLength ≤ 4194300 ↔ r.ibufLen.toNat ≤ 4194290 - r.timestampLength := by
  have hts := timestampLength_cases r
  have hid := identifierLength_cases r
  unfold Request.baseLength
  omega

/-- The bounds of R168 on the identifier of a packet, by the threshold row of its `BASELEN`. -/
theorem FrameOf.identifier_bounds {r : Request} {name : Bytes} {w : Work} (h : FrameOf r name w) :
    r.ibufLen.toNat ≤ 4194290 - w.tsb.length ∧
      (16384 ≤ r.ibufLen.toNat → w.baseLen = 7 + w.tsb.length + 3 + r.ibufLen.toNat) ∧
      (r.ibufLen.toNat = 4194290 - w.tsb.length → w.len = 4194303) ∧
      (w.lenb.length = 1 ↔ r.ibufLen.toNat ≤ 54 - w.tsb.length) ∧
      (w.lenb.length ≤ 2 ↔ r.ibufLen.toNat ≤ 16372 - w.tsb.length) := by
  have hts := timestampLength_cases r
  have hid := identifierLength_cases r
  have hbase := h.baseLen_eq
  rw [h.tsb_length, h.idb_length] at hbase
  have hrows := h.len_rows
  rw [h.tsb_length]
  omega

/-- Settles O38. -/
theorem greatestIdentifier : Obligations.GreatestIdentifier := by
  refine ⟨fun r w h => ?_, fun r name ident hc hname hident hn => ⟨⟨?_, fun hfits => ?_⟩, fun hlarge => ?_⟩⟩
  · obtain ⟨name, hw⟩ := exists_frameOf h
    exact hw.identifier_bounds
  · rintro ⟨w, h⟩
    have hw := frameOf_of_hasStatus hname h
    rw [← hw.tsb_length]
    exact hw.identifier_bounds.1
  · exact exists_buildPacket hc hname hident hn ((baseLength_le_iff r).mpr hfits)
  · have hbase := (baseLength_le_iff r).not
    have hts := timestampLength_cases r
    exact buildPacket_packetTooLarge hc hname hident hn (by omega)

/-! ### How ENC ends (R163, R172, R173) -/

theorem idPresent_eq_decide (r : Request) : idPresent r = decide (r.ibufLen ≠ 0) :=
  Bool.eq_iff_iff.mpr ((idPresent_iff r).trans decide_eq_true_iff.symm)

/-- The identifier bytes are no shorter than the identifier (R131, R132). -/
theorem length_le_identifier_bytes (ident : Bytes) :
    ident.length ≤ (if ident = [] then [] else vliBytes ident.length ++ ident).length := by
  split_ifs with hempty
  · simp [hempty]
  · simp

/-- `L` by the thresholds of R158. -/
theorem FrameOf.len_eq_thresholds {r : Request} {name : Bytes} {w : Work} (h : FrameOf r name w) :
    w.len = if w.baseLen ≤ 62 then w.baseLen + 1 else if w.baseLen ≤ 16381 then w.baseLen + 2 else w.baseLen + 3 :=
  Option.some.inj (h.len_ok.symm.trans (finalLength_of_le (le_of_finalLength h.len_ok)))

/-- Settles O29: the packet is built from the fields of the statement, and its one write meets the sink's answer. -/
theorem encSendsOnePacket : Obligations.EncSendsOnePacket := by
  intro s name ident rest hidle hc hname hident fl tsb idb baseLen len body pkt hbase
  have hident_le : ident.length ≤ idb.length := length_le_identifier_bytes ident
  have hn : s.req.ibufLen.toNat < 1073741824 := by
    have hlen : ident.length = s.req.ibufLen.toNat := memRead_length hident
    omega
  have hid : idBytes s.req.ibuf s.req.ibufLen.toNat = .ok idb := idBytes_of_hasBuffer hident hn
  have hrequest : baseLen = s.req.baseLength := by
    rw [← provisionalBody_length_of_request name hc hid, provisionalBody_length, idPresent_eq_decide]
    rfl
  obtain ⟨w, hw⟩ := exists_buildPacket hc hname hident hn (hrequest ▸ hbase)
  have hframe := frameOf_of_hasStatus hname hw
  have hidb : w.idb = idb := Except.ok.inj (hframe.idb_ok.symm.trans hid)
  have hlen : w.len = len := by
    rw [hframe.len_eq_thresholds, hframe.baseLen_eq_baseLength, ← hrequest]
  have hpkt : w.pkt = pkt := by
    rw [hframe.pkt_eq, hframe.lenb_eq, hlen, hframe.flags_eq, idPresent_eq_decide, hframe.tsb_eq, hidb]
    rfl
  have hexec : exec .enc s = .next (sinkWrite w s) := execEnc_ok hidle hw
  rw [hexec, ← hpkt]
  exact ⟨fun hans => by rw [sinkWrite_accepted w hans], fun e hans => by rw [sinkWrite_rejected w hans]⟩

/-- Settles O32: the thresholds as bounds on the identifier; the length of the identifier is checked first. -/
theorem encOutcomeByIdentifierLength : Obligations.EncOutcomeByIdentifierLength := by
  intro s name hidle hc hname n t failed
  have hbase : s.req.baseLength ≤ 4194300 ↔ n ≤ 4194290 - t := baseLength_le_iff s.req
  have hts : t = 0 ∨ 5 ≤ t ∧ t ≤ 8 := timestampLength_cases s.req
  refine ⟨fun bs hbuf hfits => ?_, fun bs hbuf hlarge hn => ?_, fun hn => ?_⟩
  · obtain ⟨w, hw⟩ := exists_buildPacket hc hname hbuf (show n < 1073741824 by omega) (hbase.mpr hfits)
    exact ⟨w, sinkWrite w s, hw, execEnc_ok hidle hw, sinkWrite_sinkWrites w s⟩
  · exact execEnc_raised hidle
      (buildPacket_packetTooLarge hc hname hbuf (show n < 1073741824 by omega) (by omega))
  · exact execEnc_raised hidle ((buildPacket_integerTooLarge_iff s.req).mpr ⟨⟨hc, name, hname⟩, hn⟩)

/-! ### The lengths a packet can have (R166) -/

/-- Length 9 would need `BASELEN` 8, that is a single byte of sub-fields; 64 and 16384 fall between the threshold
rows. -/
theorem FrameOf.len_ne {r : Request} {name : Bytes} {w : Work} (h : FrameOf r name w) :
    w.len ≠ 9 ∧ w.len ≠ 64 ∧ w.len ≠ 16384 := by
  have hts := timestampLength_cases r
  have hid := identifierLength_cases r
  have hbase := h.baseLen_eq
  rw [h.tsb_length, h.idb_length] at hbase
  have hrows := h.len_rows
  omega

/-- The length field holds the length, so bytes that decode to another value are no length field. -/
theorem FrameOf.lenb_ne {r : Request} {name : Bytes} {w : Work} (h : FrameOf r name w) {bytes : Bytes} {v k : Nat}
    (hdec : vliDec bytes = some (v, k)) (hne : w.len ≠ v) : w.lenb ≠ bytes := by
  rintro rfl
  have hbounds := h.len_bounds
  have hread := vliDec_vliBytes_append (n := w.len) (by omega) []
  rw [List.append_nil, ← h.lenb_eq, hdec] at hread
  cases hread
  exact hne rfl

/-- A request with so many identifier bytes `00`, no status name, and with or without the timestamp zero. -/
def eventRequest (n : Nat) (ts : Bool) : Request :=
  { op := 0b101#3, n := 0, ibuf := bufferOf (List.replicate n 0x00#8), ibufLen := BitVec.ofNat Config.lw n,
    status := [], statusLen := 0, tsValid := ts, tsSec := 0, tsNsec := 0 }

theorem eventRequest_ibufLen {n : Nat} (h : n < 1073741824) (ts : Bool) : (eventRequest n ts).ibufLen.toNat = n :=
  (BitVec.toNat_ofNat n 32).trans (Nat.mod_eq_of_lt (by omega))

theorem eventRequest_hasBuffer {n : Nat} (h : n < 1073741824) (ts : Bool) :
    (eventRequest n ts).HasBuffer (List.replicate n 0x00#8) := by
  have hread := memRead_bufferOf (List.replicate n 0x00#8)
  rw [List.length_replicate] at hread
  rw [Request.HasBuffer, eventRequest_ibufLen h]
  exact hread

theorem eventRequest_timestampLength (n : Nat) (ts : Bool) :
    (eventRequest n ts).timestampLength = if ts then 5 else 0 := rfl

theorem eventRequest_baseLength {n : Nat} (hpos : n ≠ 0) (h : n < 1073741824) (ts : Bool) :
    (eventRequest n ts).baseLength = 7 + (if ts = true then 5 else 0) + (n + vliSize n) := by
  rw [Request.baseLength, eventRequest_timestampLength, Request.identifierLength, eventRequest_ibufLen h, if_neg hpos]

/-- The packet of such a request has the length that step 3 finds for its `BASELEN`. -/
theorem exists_packet_of_length {n len : Nat} {ts : Bool} (hn : n < 1073741824)
    (hlen : finalLength (eventRequest n ts).baseLength = some len) :
    ∃ (r : Request) (w : Work), buildPacket r = .ok w ∧ w.len = len := by
  have hc : (eventRequest n ts).InContract := fun _ => Nat.zero_lt_succ _
  have hname : (eventRequest n ts).HasStatus [] := rfl
  obtain ⟨w, h⟩ := exists_buildPacket hc hname (eventRequest_hasBuffer hn ts) (by rwa [eventRequest_ibufLen hn])
    (le_of_finalLength hlen)
  obtain ⟨name, hw⟩ := exists_frameOf h
  have hfound := hw.len_ok
  rw [hw.baseLen_eq_baseLength, hlen] at hfound
  exact ⟨_, w, h, (Option.some.inj hfound).symm⟩

/-- Every `BASELEN` from 7 on but 8 is that of some request: an identifier alone leaves out the lengths of R135 that
cannot occur, which an identifier with a timestamp makes up. -/
theorem exists_baseLength_eq {b : Nat} (hlo : 7 ≤ b) (hhi : b ≤ 4194300) (hne : b ≠ 8) :
    ∃ n ts, n < 1073741824 ∧ (eventRequest n ts).baseLength = b := by
  have hbase : ∀ n ts, n ≠ 0 → n < 1073741824 → 7 + (if ts = true then 5 else 0) + (n + vliSize n) = b →
      ∃ n ts, n < 1073741824 ∧ (eventRequest n ts).baseLength = b :=
    fun n ts hpos hn hb => ⟨n, ts, hn, (eventRequest_baseLength hpos hn ts).trans hb⟩
  rcases (by omega : b = 7 ∨ (9 ≤ b ∧ b ≤ 71) ∨ b = 72 ∨ (73 ≤ b ∧ b ≤ 16392) ∨ b = 16393 ∨ 16394 ≤ b) with
    rfl | ⟨h, h'⟩ | rfl | ⟨h, h'⟩ | rfl | h
  · exact ⟨0, false, by decide, rfl⟩
  · have hsize : vliSize (b - 8) = 1 := vliSize_one (by omega)
    exact hbase (b - 8) false (by omega) (by omega) (by simp only [hsize, Bool.false_eq_true, if_false]; omega)
  · exact hbase 59 true (by decide) (by decide) rfl
  · have hsize : vliSize (b - 9) = 2 := vliSize_two (by omega) (by omega)
    exact hbase (b - 9) false (by omega) (by omega) (by simp only [hsize, Bool.false_eq_true, if_false]; omega)
  · exact hbase 16379 true (by decide) (by decide) rfl
  · have hsize : vliSize (b - 10) = 3 := vliSize_three (by omega) (by omega)
    exact hbase (b - 10) false (by omega) (by omega) (by simp only [hsize, Bool.false_eq_true, if_false]; omega)

/-- Settles O34: every length but those between the rows comes from a `BASELEN` that some request has. -/
theorem lengthsThatNeverOccur : Obligations.LengthsThatNeverOccur := by
  refine ⟨fun r w h => ?_, fun len hlo hhi h9 h64 h16384 => ?_⟩
  · obtain ⟨name, hw⟩ := exists_frameOf h
    obtain ⟨hlo, hhi⟩ := hw.len_bounds
    obtain ⟨h9, h64, h16384⟩ := hw.len_ne
    exact ⟨hlo, hhi, h9, h64, h16384, hw.lenb_ne (v := 64) (k := 2) rfl h64,
      hw.lenb_ne (v := 16384) (k := 3) rfl h16384⟩
  · obtain ⟨b, hb7, hb, hne, hlen⟩ : ∃ b, 7 ≤ b ∧ b ≤ 4194300 ∧ b ≠ 8 ∧ finalLength b = some len := by
      rcases (by omega : len ≤ 63 ∨ (65 ≤ len ∧ len ≤ 16383) ∨ 16385 ≤ len) with h | ⟨h, h'⟩ | h
      · obtain ⟨b, rfl⟩ := Nat.exists_eq_add_of_le' (show 1 ≤ len by omega)
        exact ⟨b, by omega, by omega, by omega, finalLength_one (by omega)⟩
      · obtain ⟨b, rfl⟩ := Nat.exists_eq_add_of_le' (show 2 ≤ len by omega)
        exact ⟨b, by omega, by omega, by omega, finalLength_two (by omega) (by omega)⟩
      · obtain ⟨b, rfl⟩ := Nat.exists_eq_add_of_le' (show 3 ≤ len by omega)
        exact ⟨b, by omega, by omega, by omega, finalLength_three (by omega) (by omega)⟩
    obtain ⟨n, ts, hn, rfl⟩ := exists_baseLength_eq hb7 hb hne
    exact exists_packet_of_length hn hlen

/-! ### The smallest packet (R167) -/

/-- A request with neither an identifier nor a timestamp has the smallest `BASELEN`. -/
theorem baseLength_eq_seven {r : Request} (hn : r.ibufLen.toNat = 0) (hv : r.tsValid = false) : r.baseLength = 7 := by
  simp [Request.baseLength, Request.timestampLength, Request.identifierLength, hn, hv]

/-- Settles O37: without sub-fields the packet is the one whose checksum R145 gives. -/
theorem minimalPacket : Obligations.MinimalPacket := by
  refine ⟨fun r name hlen hv hname hcode => ?_, fun r w h => ?_⟩
  · have hn : r.ibufLen.toNat = 0 := congrArg BitVec.toNat hlen
    have hc : r.InContract := fun hv' => by simp [hv] at hv'
    have hident : r.HasBuffer [] := by rw [Request.HasBuffer, hn, memRead_zero]
    have hbase := baseLength_eq_seven hn hv
    obtain ⟨w, h⟩ := exists_buildPacket hc hname hident (by omega) (by omega)
    have hw := frameOf_of_hasStatus hname h
    have hflags : w.flags = [0x20#8, 0x00#8] := by
      rw [hw.flags_eq, hv, flags_eq_patterns, hcode, idPresent, hn]
      rfl
    have htsb : w.tsb = [] := by rw [hw.tsb_eq, hv, tsBytes_absent]
    have hidb : w.idb = [] := Except.ok.inj (hw.idb_ok.symm.trans (idBytes_of_hasBuffer hident (by omega)))
    have hbaseLen : w.baseLen = 7 := hw.baseLen_eq_baseLength.trans hbase
    have hlen8 : w.len = 8 := by
      have hrows := hw.len_rows
      omega
    have hlenb : w.lenb = [0x08#8] := by
      rw [hw.lenb_eq, hlen8]
      rfl
    refine ⟨w, h, hflags, htsb, hidb, hbaseLen, hlen8, hlenb, ?_⟩
    obtain ⟨-, hchecksum, -⟩ := crcKnownAnswers
    have hbody : packetBody w.flags w.lenb w.tsb w.idb = [0xB3#8, 0x20#8, 0x00#8, 0x08#8] := by
      rw [hflags, hlenb, htsb, hidb]
      rfl
    rw [hw.pkt_eq, hbody, hchecksum]
    rfl
  · obtain ⟨name, hw⟩ := exists_frameOf h
    rw [hw.pkt_length]
    exact hw.len_bounds.1

/-! ### The packet is a function of the Event (R169) -/

/-- The identifier encoder sees the buffer through the bytes it reads alone. -/
theorem idBytes_congr {m m' : Memory} {n : Nat} (h : memRead m 0 n = memRead m' 0 n) : idBytes m n = idBytes m' n := by
  rw [idBytes, idBytes, readBuffer, readBuffer, h]

/-- The flags see the status name through its code alone. -/
theorem flags_congr {i t : Bool} {name name' : Bytes} (h : statusCode name = statusCode name') :
    flags i t name = flags i t name' := by
  rw [flags, flags, flags1, flags1, h]

/-- ENC builds alike from two requests with the same Event. -/
theorem buildPacket_eq_of_sameEvent {r q : Request} (h : SameEvent r q) : buildPacket r = buildPacket q := by
  obtain ⟨hlen, hident, ⟨n, m, hn, hm, hcode⟩, hts, hsec, hnsec⟩ := h
  have hflags : requestFlags r = requestFlags q := by
    rw [requestFlags_of_hasStatus hn, requestFlags_of_hasStatus hm, flags_congr hcode, idPresent, idPresent, hlen, hts]
  rw [hlen] at hident
  rw [buildPacket, buildPacket, requestTimestamp_congr hts (fun _ => ⟨hsec, hnsec⟩), hflags, hlen, idBytes_congr hident]

/-- Settles O39. -/
theorem sameEventSamePacket : Obligations.SameEventSamePacket := by
  intro r q h
  rw [buildPacket_eq_of_sameEvent h]
  exact ⟨fun w hw => ⟨w, hw, rfl⟩, fun _ he => he⟩

/-! ### The packet from the unit operations (R170) -/

/-- Settles O40: each field of the frame is the result of the unit operation of that name. -/
theorem packetFromUnitOperations : Obligations.PacketFromUnitOperations := by
  intro s w hidle h
  obtain ⟨name, hw⟩ := exists_frameOf h
  have hbounds := hw.len_bounds
  have hbody := hw.body_length
  have hn : (BitVec.ofNat Config.nw w.len).toNat = w.len :=
    (BitVec.toNat_ofNat w.len 32).trans (Nat.mod_eq_of_lt (by omega))
  refine ⟨w.flags, w.lenb, w.tsb, w.idb, checksum (packetBody w.flags w.lenb w.tsb w.idb), ?_⟩
  intro body forVli forCrc
  have hmsg : forCrc.req.HasBuffer body := by
    have hlen : forCrc.req.ibufLen.toNat = body.length :=
      (BitVec.toNat_ofNat body.length 32).trans
        (Nat.mod_eq_of_lt (show (packetBody w.flags w.lenb w.tsb w.idb).length < 2 ^ 32 by omega))
    rw [Request.HasBuffer, hlen]
    exact memRead_bufferOf body
  refine ⟨returns_unitOperation_iff.mpr ⟨hidle, ?_⟩, returns_unitOperation_iff.mpr ⟨hidle, ?_⟩,
    returns_unitOperation_iff.mpr ⟨hidle, ?_⟩, returns_unitOperation_iff.mpr ⟨hidle, hw.idb_ok⟩,
    returns_unitOperation_iff.mpr ⟨hidle, requestChecksum_of_hasBuffer hmsg⟩, hw.pkt_eq⟩
  · rw [hw.flags_eq, requestFlags_of_hasStatus hw.hasStatus]
  · rw [hw.lenb_eq, ← vliChecked_ok (by omega)]
    exact congrArg vliChecked hn
  · exact (requestTimestamp_ok_iff _ _).mpr ⟨hw.inContract, hw.tsb_eq⟩

end Sys2Proof.Machine

/-! PROOFS. The exceptions family (60_exceptions.md). First which errors an operation can raise before its sink write;
then what an error leaves behind, how each operation ends, and which requests are refused. -/

namespace Sys2Proof.Machine

/-! ### What an operation can raise before its sink write (R181 to R183) -/

theorem vliChecked_ne_sinkWriteFailure (n : Nat) (e : Config.SinkError) :
    vliChecked n ≠ .error (.raised (.sinkWriteFailure e)) := by
  rw [vliChecked]
  split_ifs <;> nofun

theorem idBytes_ne_sinkWriteFailure (buf : Memory) (n : Nat) (e : Config.SinkError) :
    idBytes buf n ≠ .error (.raised (.sinkWriteFailure e)) := by
  rcases idBytes_cases buf n with ⟨-, h⟩ | ⟨-, h⟩ | ⟨-, -, -, h⟩ | ⟨bs, -, -, -, h⟩ <;> rw [h] <;> nofun

/-- Of the sub-encoders of ENC only the identifier's raises an error, and the assembler's is PacketTooLarge. -/
theorem buildPacket_ne_sinkWriteFailure (r : Request) (e : Config.SinkError) :
    buildPacket r ≠ .error (.raised (.sinkWriteFailure e)) := by
  intro h
  obtain ⟨hc, name, hname⟩ := buildPacket_raised h
  rw [buildPacket_eq_bind hc hname] at h
  cases hid : idBytes r.ibuf r.ibufLen.toNat with
  | error stop =>
    rw [hid] at h
    exact idBytes_ne_sinkWriteFailure _ _ e (hid.trans (congrArg Except.error (Except.error.inj h)))
  | ok idb =>
    rw [hid] at h
    obtain ⟨hkind, -⟩ := assemble_error h
    cases hkind

/-- A unit operation ends with its bytes or with the error its result names. -/
theorem unitOperation_next_of_ne_sinkWriteFailure {s t : State} {result : Except Stop Bytes}
    (hresult : ∀ e, result ≠ .error (.raised (.sinkWriteFailure e))) (h : unitOperation s result = .next t) :
    (∃ res, t = deliver res s) ∨ ∃ k, (∀ e, k ≠ .sinkWriteFailure e) ∧ t = raiseError k s := by
  obtain ⟨-, ⟨res, -, ht⟩ | ⟨k, hk, ht⟩⟩ := unitOperation_next h
  · exact .inl ⟨res, ht⟩
  · exact .inr ⟨k, fun e he => hresult e (he ▸ hk), ht⟩

/-- An operation ends with its result or with an error other than SinkWriteFailure, or it is an ENC that writes its
packet, which alone can meet a failure of the sink. -/
theorem exec_operation_next {i : Instr} {s t : State} (hslot : i.slot = .request) (h : exec i s = .next t) :
    (∃ res, t = deliver res s) ∨ (∃ k, (∀ e, k ≠ .sinkWriteFailure e) ∧ t = raiseError k s) ∨
      ∃ w, buildPacket s.req = .ok w ∧ t = sinkWrite w s := by
  cases i with
  | vli => exact (unitOperation_next_of_ne_sinkWriteFailure (vliChecked_ne_sinkWriteFailure _) h).imp_right .inl
  | flg => exact (unitOperation_next_of_ne_sinkWriteFailure (fun _ => requestFlags_ne_raised _ _) h).imp_right .inl
  | tse => exact (unitOperation_next_of_ne_sinkWriteFailure (fun _ => requestTimestamp_ne_raised _ _) h).imp_right .inl
  | ide => exact (unitOperation_next_of_ne_sinkWriteFailure (idBytes_ne_sinkWriteFailure _ _) h).imp_right .inl
  | crc => exact (unitOperation_next_of_ne_sinkWriteFailure (fun _ => requestChecksum_ne_raised _ _) h).imp_right .inl
  | enc =>
    obtain ⟨-, hwrite | ⟨k, hk, ht⟩⟩ := execEnc_next h
    · exact .inr (.inr hwrite)
    · exact .inr (.inl ⟨k, fun e he => buildPacket_ne_sinkWriteFailure _ e (he ▸ hk), ht⟩)
  | reservedOp6 => cases h
  | reservedOp7 => cases h
  | wireVli1 v => cases hslot
  | wireVli2 v => cases hslot
  | wireVli3 v => cases hslot
  | wireVli4 v => cases hslot
  | wireSignature => cases hslot
  | wireFlags p q c => cases hslot

/-! ### What an error leaves behind (R186) -/

theorem errorResponse_kind_ne_sinkWriteFailure {k : ErrorKind} (h : ∀ e, k ≠ .sinkWriteFailure e) :
    (errorResponse k).kind ≠ .sinkWriteFailure ∧ (errorResponse k).sinkErr = none := by
  cases k with
  | integerTooLarge => exact ⟨nofun, rfl⟩
  | packetTooLarge => exact ⟨nofun, rfl⟩
  | sinkWriteFailure e => exact absurd rfl (h e)

/-- A write is answered with an error in the step that makes it exactly where the sink's next answer is a failure. -/
theorem sinkWrite_error {w : Work} {s : State} {r : Response} (h : (sinkWrite w s).responses = s.responses ++ [r])
    (hkind : r.kind ≠ .ok) :
    ∃ e rest, s.sinkAnswers = .fail e :: rest ∧ r = { kind := .sinkWriteFailure, res := [], sinkErr := some e } := by
  rcases hans : s.sinkAnswers with _ | ⟨_ | e, rest⟩
  · simp [sinkWrite_unanswered w hans] at h
  · rw [sinkWrite_accepted w hans, List.append_cancel_left_eq, List.singleton_inj] at h
    exact absurd (h ▸ rfl) hkind
  · rw [sinkWrite_rejected w hans, List.append_cancel_left_eq, List.singleton_inj] at h
    exact ⟨e, rest, rfl, h.symm⟩

/-- Settles O45: the error is raised before the sink write, or it is the sink's answer to it. -/
theorem errorLeavesNothing : Obligations.ErrorLeavesNothing := by
  intro i s t r hslot h hresp hkind
  rcases exec_operation_next hslot h with ⟨res, rfl⟩ | ⟨k, hk, rfl⟩ | ⟨w, hw, rfl⟩
  · rw [deliver_responses, List.append_cancel_left_eq, List.singleton_inj] at hresp
    exact absurd (hresp ▸ rfl) hkind
  · rw [raiseError_responses, List.append_cancel_left_eq, List.singleton_inj] at hresp
    subst hresp
    obtain ⟨hne, hnone⟩ := errorResponse_kind_ne_sinkWriteFailure hk
    exact ⟨rfl, rfl, errorResponse_res k, rfl, rfl, fun _ => ⟨hnone, rfl, rfl⟩, fun hfail => absurd hfail hne⟩
  · obtain ⟨e, rest, hans, rfl⟩ := sinkWrite_error hresp hkind
    rw [sinkWrite_rejected w hans]
    exact ⟨rfl, rfl, rfl, rfl, rfl, fun hne => absurd rfl hne, fun _ => ⟨w, e, rest, hw, hans, rfl, rfl, rfl⟩⟩

/-! ### How each operation ends (R185) -/

theorem endsWith_deliver {o : Outcome} {s : State} {res : Bytes} (h : o = .next (deliver res s)) : EndsWith o s .ok :=
  ⟨_, res, none, h, rfl⟩

theorem endsWith_raiseError {o : Outcome} {s : State} {k : ErrorKind} (h : o = .next (raiseError k s)) :
    EndsWith o s (errorResponse k).kind :=
  ⟨_, (errorResponse k).res, (errorResponse k).sinkErr, h, rfl⟩

theorem execVli_raised {s : State} (hidle : s.busy = false) (hn : 1073741824 ≤ s.req.n.toNat) :
    execVli s = .next (raiseError .integerTooLarge s) := by
  rw [execVli, vliChecked_raised hn, unitOperation_raised hidle]

/-- An ENC whose packet is built ends as the sink answers. -/
theorem execEnc_endsWith_ok {s : State} {w : Work} {rest : List SinkAnswer} (hidle : s.busy = false)
    (hw : buildPacket s.req = .ok w) (hans : s.sinkAnswers = .ok :: rest) : EndsWith (execEnc s) s .ok :=
  ⟨_, _, _, execEnc_ok hidle hw, by rw [sinkWrite_accepted w hans]⟩

theorem execEnc_endsWith_sinkWriteFailure {s : State} {w : Work} {e : Config.SinkError} {rest : List SinkAnswer}
    (hidle : s.busy = false) (hw : buildPacket s.req = .ok w) (hans : s.sinkAnswers = .fail e :: rest) :
    EndsWith (execEnc s) s .sinkWriteFailure :=
  ⟨_, _, _, execEnc_ok hidle hw, by rw [sinkWrite_rejected w hans]⟩

/-- `BASELEN` with the identifier's size written before its length, as R185 has it. -/
theorem baseLength_eq (r : Request) :
    r.baseLength =
      7 + r.timestampLength + (if r.ibufLen.toNat = 0 then 0 else vliSize r.ibufLen.toNat + r.ibufLen.toNat) := by
  rw [Request.baseLength, Request.identifierLength, Nat.add_comm (vliSize _)]

/-- Settles O44, cell by cell from what each operation delivers or raises. -/
theorem outcomeMatrix : Obligations.OutcomeMatrix := by
  intro s hidle n
  refine ⟨fun hn => endsWith_deliver (execVli_ok hidle (by omega)),
    fun hn => endsWith_raiseError (execVli_raised hidle hn),
    fun name hname => endsWith_deliver (execFlg_ok hidle hname), fun hc => endsWith_deliver (execTse_ok hidle hc),
    fun bs hn hbuf => endsWith_deliver (execIde_ok hidle (idBytes_of_hasBuffer hbuf (Nat.lt_succ_of_le hn))),
    fun hn => endsWith_raiseError (execIde_raised hidle hn),
    fun bs hbuf => endsWith_deliver (execCrc_ok hidle hbuf),
    fun w rest hw hans => execEnc_endsWith_ok hidle hw hans,
    fun w e rest hw hans => execEnc_endsWith_sinkWriteFailure hidle hw hans,
    fun name hc hname hn => endsWith_raiseError
      (execEnc_raised hidle ((buildPacket_integerTooLarge_iff s.req).mpr ⟨⟨hc, name, hname⟩, hn⟩)),
    fun name bs hc hname hbuf hn hbase => endsWith_raiseError (execEnc_raised hidle
      (buildPacket_packetTooLarge hc hname hbuf (Nat.lt_succ_of_le hn) (baseLength_eq s.req ▸ hbase)))⟩

/-! ### Which requests are refused (R184) -/

theorem readBuffer_unwritten {m : Memory} {n : Nat} (h : memRead m 0 n = none) :
    readBuffer m n = .error (.refused .unwrittenByte) := by
  rw [readBuffer, h]

theorem requestTimestamp_refused {r : Request} (hv : r.tsValid = true) (hns : 1000000000 ≤ r.tsNsec.toNat) :
    requestTimestamp r = .error (.refused .nanosecondsOutOfContract) := by
  rcases requestTimestamp_cases r with ⟨hc, -⟩ | ⟨-, -, h⟩
  · exact absurd (hc hv) (by omega)
  · exact h

theorem requestFlags_refused {r : Request} (h : memRead r.status 0 r.statusLen.toNat = none) :
    requestFlags r = .error (.refused .unwrittenByte) := by
  rw [requestFlags, statusName, readBuffer_unwritten h]

theorem requestChecksum_refused {r : Request} (h : memRead r.ibuf 0 r.ibufLen.toNat = none) :
    requestChecksum r = .error (.refused .unwrittenByte) := by
  rw [requestChecksum, message, readBuffer_unwritten h]

/-- An identifier of encodable length with an unwritten byte; one of length 0 has no byte to miss. -/
theorem idBytes_refused {buf : Memory} {n : Nat} (hn : n < 1073741824) (h : memRead buf 0 n = none) :
    idBytes buf n = .error (.refused .unwrittenByte) := by
  rcases idBytes_cases buf n with ⟨rfl, -⟩ | ⟨hlarge, -⟩ | ⟨-, -, -, hid⟩ | ⟨bs, -, -, hread, -⟩
  · rw [memRead_zero] at h
    cases h
  · omega
  · exact hid
  · rw [h] at hread
    cases hread

/-- ENC looks at the nanoseconds before anything else (notes/assumptions/11.md). -/
theorem buildPacket_of_requestTimestamp_error {r : Request} {stop : Stop} (h : requestTimestamp r = .error stop) :
    buildPacket r = .error stop := by
  rw [buildPacket, h]

/-- Next ENC reads the status name (notes/assumptions/11.md). -/
theorem buildPacket_of_requestFlags_error {r : Request} {stop : Stop} (hc : r.InContract)
    (h : requestFlags r = .error stop) : buildPacket r = .error stop := by
  rw [buildPacket, (requestTimestamp_ok_iff r _).mpr ⟨hc, rfl⟩, h]

/-- Then ENC encodes the identifier (notes/assumptions/11.md). -/
theorem buildPacket_of_idBytes_error {r : Request} {name : Bytes} {stop : Stop} (hc : r.InContract)
    (hname : r.HasStatus name) (h : idBytes r.ibuf r.ibufLen.toNat = .error stop) : buildPacket r = .error stop := by
  rw [buildPacket_eq_bind hc hname, h]
  rfl

theorem execEnc_refused {s : State} {x : Refusal} (hidle : s.busy = false)
    (h : buildPacket s.req = .error (.refused x)) : execEnc s = .refused x := by
  rw [execEnc, whenIdle_idle hidle, h]

theorem unitOperation_of_refused {s : State} {result : Except Stop Bytes} {x : Refusal} (hidle : s.busy = false)
    (h : result = .error (.refused x)) : unitOperation s result = .refused x := by
  rw [h, unitOperation_refused hidle]

/-- Every operation of the block is accepted only while it is idle (R26, R213). -/
theorem exec_operation_eq_whenIdle {i : Instr} (hi : i ∈ [Instr.vli, .flg, .tse, .ide, .crc, .enc]) (s : State) :
    ∃ run, exec i s = whenIdle s run := by
  simp only [List.mem_cons, List.not_mem_nil, or_false] at hi
  rcases hi with rfl | rfl | rfl | rfl | rfl | rfl <;> exact ⟨_, rfl⟩

/-- Settles O49, by the sub-encoder that meets what is ill-formed, whose refusal ENC passes on. -/
theorem illFormedRequestsRefused : Obligations.IllFormedRequestsRefused := by
  refine ⟨fun s hidle hv hns => ?_, fun s hidle hstatus => ?_, fun s hidle hbuf => ?_, fun i s hi hbusy => ?_⟩
  · have hts := requestTimestamp_refused hv hns
    exact ⟨unitOperation_of_refused hidle hts, execEnc_refused hidle (buildPacket_of_requestTimestamp_error hts)⟩
  · have hflags := requestFlags_refused hstatus
    exact ⟨unitOperation_of_refused hidle hflags,
      fun hc => execEnc_refused hidle (buildPacket_of_requestFlags_error hc hflags)⟩
  · have hid (hn : s.req.ibufLen.toNat < 1073741824) := idBytes_refused hn hbuf
    exact ⟨unitOperation_of_refused hidle (requestChecksum_refused hbuf),
      fun hn => unitOperation_of_refused hidle (hid hn),
      fun name hn hc hname => execEnc_refused hidle (buildPacket_of_idBytes_error hc hname (hid hn))⟩
  · obtain ⟨run, hrun⟩ := exec_operation_eq_whenIdle hi s
    rw [hrun, whenIdle_busy hbusy]

end Sys2Proof.Machine

/-! PROOFS. The reset and hazards family (70_reset_and_hazards.md). First how the one wait of the block ends, in the
terms of the shared operations; then that every operation ends, and what reset does and leaves. -/

namespace Sys2Proof.Machine

/-! ### The one wait of the block (R217, R218) -/

/-- Going from `s` to `t`, an operation ended: the block is idle and exactly one response was delivered (R219). -/
def EndsOnce (s t : State) : Prop := t.busy = false ∧ ∃ r, t.responses = s.responses ++ [r]

theorem endsOnce_respond (r : Response) (s : State) : EndsOnce s (respond r s) := ⟨rfl, r, rfl⟩

/-- Whatever the sink answers, the answer ends the operation. -/
theorem endsOnce_answerSink (a : SinkAnswer) (s : State) : EndsOnce s (answerSink a s) := by
  cases a with
  | ok => exact endsOnce_respond _ { s with sinkLog := s.sinkLog ++ [s.work.pkt] }
  | fail e => exact endsOnce_respond _ s

theorem endsOnce_awaitSink {s : State} {a : SinkAnswer} {rest : List SinkAnswer} (h : s.sinkAnswers = a :: rest) :
    EndsOnce s (awaitSink s) := by
  simp only [awaitSink, h]
  exact endsOnce_answerSink a { s with sinkAnswers := rest }

/-- A write with an answer at hand ends the operation in the step that makes it. -/
theorem endsOnce_sinkWrite (w : Work) {s : State} {a : SinkAnswer} {rest : List SinkAnswer}
    (h : s.sinkAnswers = a :: rest) : EndsOnce s (sinkWrite w s) :=
  endsOnce_awaitSink (s := { s with busy := true, work := w, sinkWrites := s.sinkWrites ++ [w.pkt] }) h

/-- An operation in progress ends in the step that has its answer at hand. -/
theorem step_answered {s : State} {a : SinkAnswer} {rest : List SinkAnswer} (hbusy : s.busy = true)
    (h : s.sinkAnswers = a :: rest) : ∃ u, step s = .next u ∧ EndsOnce s u :=
  ⟨awaitSink s, step_busy hbusy, endsOnce_awaitSink h⟩

/-- Settles O30: ENC writes and waits, and a busy step is the wait for the sink, by what the sink answers. -/
theorem encWaitsForTheSink : Obligations.EncWaitsForTheSink := by
  refine ⟨fun s w hidle hw hans => ?_, fun s hbusy hans => ?_, fun s rest hbusy hans => ?_,
    fun s e rest hbusy hans => ?_⟩
  · exact (execEnc_ok hidle hw).trans (congrArg _ (sinkWrite_unanswered w hans))
  · rw [step_busy hbusy, awaitSink_unanswered hans]
  · rw [step_busy hbusy, awaitSink_accepted hans]
  · rw [step_busy hbusy, awaitSink_rejected hans]

/-! ### Every operation ends (R217, R219) -/

/-- Settles O31, over what an operation can have done: only the write of ENC can leave it in progress, and only until
the sink's answer. -/
theorem everyOperationEnds : Obligations.EveryOperationEnds := by
  intro i s t hslot h
  rcases exec_next h with ⟨-, -, res, rfl⟩ | ⟨-, -, k, rfl⟩ | ⟨rfl, -, w, -, rfl⟩ | ⟨hwire, -⟩
  · exact .inl (endsOnce_respond _ s)
  · exact .inl (endsOnce_respond _ s)
  · rcases hans : s.sinkAnswers with _ | ⟨a, rest⟩
    · rw [sinkWrite_unanswered w hans]
      refine .inr ⟨rfl, rfl, rfl, rfl, fun a rest => ?_⟩
      obtain ⟨u, hstep, hidle, r, hresp⟩ := step_answered
        (s := { s with busy := true, work := w, sinkWrites := s.sinkWrites ++ [w.pkt], sinkAnswers := a :: rest })
        rfl rfl
      exact ⟨u, r, hstep, hidle, hresp⟩
    · exact .inl (endsOnce_sinkWrite w hans)
  · exact absurd hslot hwire

/-! ### Reset (R210) -/

/-- A reset that the host issues to an idle block is done in one step. -/
theorem step_reset {s : State} {rest : List HostAction} (hidle : s.busy = false) (hhost : s.host = .reset :: rest) :
    step s = .next (resetBlock { s with host := rest }) := by
  simp [step, hidle, fetch, hhost]

/-- Settles O54: the state after reset and the constants evaluate; a reset touches the registers of the block alone. -/
theorem resetState : Obligations.ResetState :=
  ⟨reset_busy, reset_responses, reset_sinkWrites, reset_sinkLog, rfl, rfl, rfl,
    fun _ _ hidle hhost => ⟨_, step_reset hidle hhost, rfl, rfl, rfl, rfl, rfl⟩⟩

/-- Settles O55: after reset the buffers are empty, the block is idle, and nothing has been written or answered. -/
theorem resetMeetsInvariants : Obligations.ResetMeetsInvariants :=
  ⟨⟨reset_memory_wf, nofun⟩, workFollowsBusy_of_idle reset_busy reset_work, nofun,
    logFollowsWrites_of_idle reset_busy (.refl _), nofun⟩

end Sys2Proof.Machine
